-- ==== Sys2Proof/Word.lean ====
section
/-! DEFINITION. The words of the machine (R9): bytes, 16-bit words, 12-bit addresses, and the names of the
sixteen general registers. -/

namespace Sys2Proof

/-- An 8-bit value: `V[i]`, `R[i]`, `DT`, `ST`, `SP`, one byte of `Memory` (R9). -/
abbrev Byte := BitVec 8

/-- A 16-bit value: `I`, `PC`, `IR`, a `Stack` entry (R9). -/
abbrev Word := BitVec 16

/-- A 12-bit address, the field `NNN` (R117). -/
abbrev Addr := BitVec 12

/-- The index of a general register `V[0]` .. `V[15]` (R31), the fields `X` and `Y` (R117). -/
abbrev Reg := Fin 16

/-- A 4-bit count, the field `N` (R117, R119). -/
abbrev Nibble := Fin 16

end Sys2Proof
end

