-- ==== Sys2Proof/Syntax.lean ====
section
/-! DEFINITION. The instruction set: one constructor per row of the opcode table (R120), with the fields its format
uses (R118). A field's type is its width (R117), so that no term names a register or an immediate that a word
cannot hold. -/

namespace Sys2Proof

/-- The formats of R118. -/
inductive Format where
  | z | n4 | a | xk | xy | xyn | x
  deriving DecidableEq, Repr

/-- The control-flow kind of a table entry (R140). No execution depends on it. -/
inductive Kind where
  | other | jump | branch | ret | exit
  deriving DecidableEq, Repr

/-- The 43 instructions of R120, in the table's order. -/
inductive Instr where
  /-- `CLS`, 0000000011100000 (R181). -/
  | cls
  /-- `RET`, 0000000011101110 (R271). -/
  | ret
  /-- `SCD n`, 000000001100nnnn (R185). -/
  | scd (n : Nibble)
  /-- `SCR`, 0000000011111011 (R186). -/
  | scr
  /-- `SCL`, 0000000011111100 (R187). -/
  | scl
  /-- `EXIT`, 0000000011111101 (R300). -/
  | exit
  /-- `LOW`, 0000000011111110 (R190). -/
  | low
  /-- `HIGH`, 0000000011111111 (R189). -/
  | high
  /-- `JP nnn`, 0001aaaaaaaaaaaa (R272). -/
  | jp (nnn : Addr)
  /-- `CALL nnn`, 0010aaaaaaaaaaaa (R273). -/
  | call (nnn : Addr)
  /-- `SE Vx,kk`, 0011xxxxkkkkkkkk (R274). -/
  | seVxKk (x : Reg) (kk : Byte)
  /-- `SNE Vx,kk`, 0100xxxxkkkkkkkk (R275). -/
  | sneVxKk (x : Reg) (kk : Byte)
  /-- `SE Vx,Vy`, 0101xxxxyyyy0000 (R276). -/
  | seVxVy (x y : Reg)
  /-- `LD Vx,kk`, 0110xxxxkkkkkkkk (R151). -/
  | ldVxKk (x : Reg) (kk : Byte)
  /-- `ADD Vx,kk`, 0111xxxxkkkkkkkk (R152). -/
  | addVxKk (x : Reg) (kk : Byte)
  /-- `LD Vx,Vy`, 1000xxxxyyyy0000 (R153). -/
  | ldVxVy (x y : Reg)
  /-- `OR Vx,Vy`, 1000xxxxyyyy0001 (R154). -/
  | orVxVy (x y : Reg)
  /-- `AND Vx,Vy`, 1000xxxxyyyy0010 (R155). -/
  | andVxVy (x y : Reg)
  /-- `XOR Vx,Vy`, 1000xxxxyyyy0011 (R156). -/
  | xorVxVy (x y : Reg)
  /-- `ADD Vx,Vy`, 1000xxxxyyyy0100 (R157). -/
  | addVxVy (x y : Reg)
  /-- `SUB Vx,Vy`, 1000xxxxyyyy0101 (R158). -/
  | subVxVy (x y : Reg)
  /-- `SHR Vx{,Vy}`, 1000xxxxyyyy0110 (R159). `Y` is decoded and ignored. -/
  | shrVxVy (x y : Reg)
  /-- `SUBN Vx,Vy`, 1000xxxxyyyy0111 (R160). -/
  | subnVxVy (x y : Reg)
  /-- `SHL Vx{,Vy}`, 1000xxxxyyyy1110 (R161). `Y` is decoded and ignored. -/
  | shlVxVy (x y : Reg)
  /-- `SNE Vx,Vy`, 1001xxxxyyyy0000 (R277). -/
  | sneVxVy (x y : Reg)
  /-- `LD I,nnn`, 1010aaaaaaaaaaaa (R240). -/
  | ldINnn (nnn : Addr)
  /-- `JP V0,nnn`, 1011aaaaaaaaaaaa (R278). -/
  | jpV0Nnn (nnn : Addr)
  /-- `RND Vx,kk`, 1100xxxxkkkkkkkk (R162). -/
  | rndVxKk (x : Reg) (kk : Byte)
  /-- `DRW Vx,Vy,n`, 1101xxxxyyyynnnn (R183). -/
  | drwVxVyN (x y : Reg) (n : Nibble)
  /-- `SKP Vx`, 1110xxxx10011110 (R220). -/
  | skpVx (x : Reg)
  /-- `SKNP Vx`, 1110xxxx10100001 (R221). -/
  | sknpVx (x : Reg)
  /-- `LD Vx,DT`, 1111xxxx00000111 (R223). -/
  | ldVxDt (x : Reg)
  /-- `LD Vx,K`, 1111xxxx00001010 (R222). -/
  | ldVxK (x : Reg)
  /-- `LD DT,Vx`, 1111xxxx00010101 (R224). -/
  | ldDtVx (x : Reg)
  /-- `LD ST,Vx`, 1111xxxx00011000 (R225). -/
  | ldStVx (x : Reg)
  /-- `ADD I,Vx`, 1111xxxx00011110 (R241). -/
  | addIVx (x : Reg)
  /-- `LD F,Vx`, 1111xxxx00101001 (R242). -/
  | ldFVx (x : Reg)
  /-- `LD HF,Vx`, 1111xxxx00110000 (R243). -/
  | ldHfVx (x : Reg)
  /-- `LD B,Vx`, 1111xxxx00110011 (R244). -/
  | ldBVx (x : Reg)
  /-- `LD [I],Vx`, 1111xxxx01010101 (R245). -/
  | ldMemVx (x : Reg)
  /-- `LD Vx,[I]`, 1111xxxx01100101 (R246). -/
  | ldVxMem (x : Reg)
  /-- `LD R,Vx`, 1111xxxx01110101 (R247). -/
  | ldRVx (x : Reg)
  /-- `LD Vx,R`, 1111xxxx10000101 (R248). -/
  | ldVxR (x : Reg)
  deriving DecidableEq, Repr

end Sys2Proof
end

