-- ==== Sys2Proof/WellFormed.lean ====
section
/-! DEFINITION. When the operands of an instruction fit the fields of its format (R117, R118). `Operands` holds them as
plain numbers, the way a reader or an assembler writes them, and the check refuses a number that its field cannot
hold. -/

namespace Sys2Proof

/-- The operands of each format (R118), as numbers. -/
inductive Operands where
  | z
  | n4 (n : Nat)
  | a (nnn : Nat)
  | xk (x kk : Nat)
  | xy (x y : Nat)
  | xyn (x y n : Nat)
  | xOnly (x : Nat)
  deriving DecidableEq, Repr

/-- Each number fits the width of its field: 4 bits for `X`, `Y` and `N`, 8 for `NN`, 12 for `NNN` (R117). -/
def Operands.wellFormed : Operands → Bool
  | .z => true
  | .n4 n => decide (n < 16)
  | .a nnn => decide (nnn < 4096)
  | .xk x kk => decide (x < 16) && decide (kk < 256)
  | .xy x y => decide (x < 16) && decide (y < 16)
  | .xyn x y n => decide (x < 16) && decide (y < 16) && decide (n < 16)
  | .xOnly x => decide (x < 16)

/-- The word that a pattern and operands make: each field at its place (R117, R118). -/
def Operands.bits : Operands → Nat
  | .z => 0
  | .n4 n => n
  | .a nnn => nnn
  | .xk x kk => 256 * x + kk
  | .xy x y => 256 * x + 16 * y
  | .xyn x y n => 256 * x + 16 * y + n
  | .xOnly x => 256 * x

/-- The operands of an instruction, in the form of its row's format (R120). -/
def Instr.operands : Instr → Operands
  | .cls => .z
  | .ret => .z
  | .scd n => .n4 n.val
  | .scr => .z
  | .scl => .z
  | .exit => .z
  | .low => .z
  | .high => .z
  | .jp nnn => .a nnn.toNat
  | .call nnn => .a nnn.toNat
  | .seVxKk x kk => .xk x.val kk.toNat
  | .sneVxKk x kk => .xk x.val kk.toNat
  | .seVxVy x y => .xy x.val y.val
  | .ldVxKk x kk => .xk x.val kk.toNat
  | .addVxKk x kk => .xk x.val kk.toNat
  | .ldVxVy x y => .xy x.val y.val
  | .orVxVy x y => .xy x.val y.val
  | .andVxVy x y => .xy x.val y.val
  | .xorVxVy x y => .xy x.val y.val
  | .addVxVy x y => .xy x.val y.val
  | .subVxVy x y => .xy x.val y.val
  | .shrVxVy x y => .xy x.val y.val
  | .subnVxVy x y => .xy x.val y.val
  | .shlVxVy x y => .xy x.val y.val
  | .sneVxVy x y => .xy x.val y.val
  | .ldINnn nnn => .a nnn.toNat
  | .jpV0Nnn nnn => .a nnn.toNat
  | .rndVxKk x kk => .xk x.val kk.toNat
  | .drwVxVyN x y n => .xyn x.val y.val n.val
  | .skpVx x => .xOnly x.val
  | .sknpVx x => .xOnly x.val
  | .ldVxDt x => .xOnly x.val
  | .ldVxK x => .xOnly x.val
  | .ldDtVx x => .xOnly x.val
  | .ldStVx x => .xOnly x.val
  | .addIVx x => .xOnly x.val
  | .ldFVx x => .xOnly x.val
  | .ldHfVx x => .xOnly x.val
  | .ldBVx x => .xOnly x.val
  | .ldMemVx x => .xOnly x.val
  | .ldVxMem x => .xOnly x.val
  | .ldRVx x => .xOnly x.val
  | .ldVxR x => .xOnly x.val

/-- An instruction is well formed when its operands fit its format. -/
def Instr.WellFormed (i : Instr) : Prop := i.operands.wellFormed = true

end Sys2Proof
end

