-- ==== Sys2Proof/Decode.lean ====
section
/-! DEFINITION. The instruction table, the decoder that scans it (R114), and the encoder. The patterns and masks are those
of R120, which the spec marks as general knowledge (D2; log 1: UNVERIFIED, unsafe). -/

namespace Sys2Proof

/-- `X` = w[11:8] (R117). -/
def fieldX (w : Word) : Reg := (w.extractLsb 11 8).toFin

/-- `Y` = w[7:4] (R117). -/
def fieldY (w : Word) : Reg := (w.extractLsb 7 4).toFin

/-- `N` = w[3:0] (R117). -/
def fieldN (w : Word) : Nibble := (w.extractLsb 3 0).toFin

/-- `NN` = w[7:0] (R117). -/
def fieldNN (w : Word) : Byte := w.extractLsb 7 0

/-- `NNN` = w[11:0] (R117). -/
def fieldNNN (w : Word) : Addr := w.extractLsb 11 0

/-- One entry of the table (R116, R120): name, pattern, mask, format, control-flow kind, and the instruction that a
matching word stands for. -/
structure Row where
  name : String
  pattern : Word
  mask : Word
  format : Format
  kind : Kind
  build : Word → Instr

/-- A word selects a row iff `(w & mask) == match` (R120). -/
def Row.selects (r : Row) (w : Word) : Bool := w &&& r.mask == r.pattern

/-- The table of R120, rows 1 to 8. -/
def tableSystem : List Row := [
  ⟨"CLS", 0x00E0, 0xFFFF, .z, .other, fun _ => .cls⟩,
  ⟨"RET", 0x00EE, 0xFFFF, .z, .ret, fun _ => .ret⟩,
  ⟨"SCD_n", 0x00C0, 0xFFF0, .n4, .other, fun w => .scd (fieldN w)⟩,
  ⟨"SCR", 0x00FB, 0xFFFF, .z, .other, fun _ => .scr⟩,
  ⟨"SCL", 0x00FC, 0xFFFF, .z, .other, fun _ => .scl⟩,
  ⟨"EXIT", 0x00FD, 0xFFFF, .z, .exit, fun _ => .exit⟩,
  ⟨"LOW", 0x00FE, 0xFFFF, .z, .other, fun _ => .low⟩,
  ⟨"HIGH", 0x00FF, 0xFFFF, .z, .other, fun _ => .high⟩]

/-- The table of R120, rows 9 to 15. -/
def tableJump : List Row := [
  ⟨"JP_nnn", 0x1000, 0xF000, .a, .jump, fun w => .jp (fieldNNN w)⟩,
  ⟨"CALL_nnn", 0x2000, 0xF000, .a, .branch, fun w => .call (fieldNNN w)⟩,
  ⟨"SE_Vx_kk", 0x3000, 0xF000, .xk, .branch, fun w => .seVxKk (fieldX w) (fieldNN w)⟩,
  ⟨"SNE_Vx_kk", 0x4000, 0xF000, .xk, .branch, fun w => .sneVxKk (fieldX w) (fieldNN w)⟩,
  ⟨"SE_Vx_Vy", 0x5000, 0xF00F, .xy, .branch, fun w => .seVxVy (fieldX w) (fieldY w)⟩,
  ⟨"LD_Vx_kk", 0x6000, 0xF000, .xk, .other, fun w => .ldVxKk (fieldX w) (fieldNN w)⟩,
  ⟨"ADD_Vx_kk", 0x7000, 0xF000, .xk, .other, fun w => .addVxKk (fieldX w) (fieldNN w)⟩]

/-- The table of R120, rows 16 to 25. -/
def tableReg : List Row := [
  ⟨"LD_Vx_Vy", 0x8000, 0xF00F, .xy, .other, fun w => .ldVxVy (fieldX w) (fieldY w)⟩,
  ⟨"OR_Vx_Vy", 0x8001, 0xF00F, .xy, .other, fun w => .orVxVy (fieldX w) (fieldY w)⟩,
  ⟨"AND_Vx_Vy", 0x8002, 0xF00F, .xy, .other, fun w => .andVxVy (fieldX w) (fieldY w)⟩,
  ⟨"XOR_Vx_Vy", 0x8003, 0xF00F, .xy, .other, fun w => .xorVxVy (fieldX w) (fieldY w)⟩,
  ⟨"ADD_Vx_Vy", 0x8004, 0xF00F, .xy, .other, fun w => .addVxVy (fieldX w) (fieldY w)⟩,
  ⟨"SUB_Vx_Vy", 0x8005, 0xF00F, .xy, .other, fun w => .subVxVy (fieldX w) (fieldY w)⟩,
  ⟨"SHR_Vx__Vy", 0x8006, 0xF00F, .xy, .other, fun w => .shrVxVy (fieldX w) (fieldY w)⟩,
  ⟨"SUBN_Vx_Vy", 0x8007, 0xF00F, .xy, .other, fun w => .subnVxVy (fieldX w) (fieldY w)⟩,
  ⟨"SHL_Vx__Vy", 0x800E, 0xF00F, .xy, .other, fun w => .shlVxVy (fieldX w) (fieldY w)⟩,
  ⟨"SNE_Vx_Vy", 0x9000, 0xF00F, .xy, .branch, fun w => .sneVxVy (fieldX w) (fieldY w)⟩]

/-- The table of R120, rows 26 to 31. -/
def tableWide : List Row := [
  ⟨"LD_I_nnn", 0xA000, 0xF000, .a, .other, fun w => .ldINnn (fieldNNN w)⟩,
  ⟨"JP_V0_nnn", 0xB000, 0xF000, .a, .jump, fun w => .jpV0Nnn (fieldNNN w)⟩,
  ⟨"RND_Vx_kk", 0xC000, 0xF000, .xk, .other, fun w => .rndVxKk (fieldX w) (fieldNN w)⟩,
  ⟨"DRW_Vx_Vy_n", 0xD000, 0xF000, .xyn, .other, fun w => .drwVxVyN (fieldX w) (fieldY w) (fieldN w)⟩,
  ⟨"SKP_Vx", 0xE09E, 0xF0FF, .x, .branch, fun w => .skpVx (fieldX w)⟩,
  ⟨"SKNP_Vx", 0xE0A1, 0xF0FF, .x, .branch, fun w => .sknpVx (fieldX w)⟩]

/-- The table of R120, rows 32 to 43. -/
def tableF : List Row := [
  ⟨"LD_Vx_DT", 0xF007, 0xF0FF, .x, .other, fun w => .ldVxDt (fieldX w)⟩,
  ⟨"LD_Vx_K", 0xF00A, 0xF0FF, .x, .other, fun w => .ldVxK (fieldX w)⟩,
  ⟨"LD_DT_Vx", 0xF015, 0xF0FF, .x, .other, fun w => .ldDtVx (fieldX w)⟩,
  ⟨"LD_ST_Vx", 0xF018, 0xF0FF, .x, .other, fun w => .ldStVx (fieldX w)⟩,
  ⟨"ADD_I_Vx", 0xF01E, 0xF0FF, .x, .other, fun w => .addIVx (fieldX w)⟩,
  ⟨"LD_F_Vx", 0xF029, 0xF0FF, .x, .other, fun w => .ldFVx (fieldX w)⟩,
  ⟨"LD_HF_Vx", 0xF030, 0xF0FF, .x, .other, fun w => .ldHfVx (fieldX w)⟩,
  ⟨"LD_B_Vx", 0xF033, 0xF0FF, .x, .other, fun w => .ldBVx (fieldX w)⟩,
  ⟨"LD__I__Vx", 0xF055, 0xF0FF, .x, .other, fun w => .ldMemVx (fieldX w)⟩,
  ⟨"LD_Vx__I", 0xF065, 0xF0FF, .x, .other, fun w => .ldVxMem (fieldX w)⟩,
  ⟨"LD_R_Vx", 0xF075, 0xF0FF, .x, .other, fun w => .ldRVx (fieldX w)⟩,
  ⟨"LD_Vx_R", 0xF085, 0xF0FF, .x, .other, fun w => .ldVxR (fieldX w)⟩]

/-- The table of R120, in declaration order. -/
def table : List Row := tableSystem ++ tableJump ++ tableReg ++ tableWide ++ tableF

/-- Why the decoder refuses. -/
inductive DecodeReject where
  /-- Fewer than the two bytes of an instruction (R110). -/
  | tooShort
  /-- A word 0nnn that no row matches: the `SYS nnn` space (R122, R301). -/
  | sysSpace
  /-- Any other word that no row matches (R122). -/
  | noRow
  deriving DecidableEq, Repr

/-- Scan the table in declaration order and take the first entry that the word selects (R114). -/
def decodeWord (w : Word) : Except DecodeReject Instr :=
  match table.find? (fun r => r.selects w) with
  | some r => .ok (r.build w)
  | none => if w &&& 0xF000 == 0 then .error .sysSpace else .error .noRow

/-- Two bytes as a word: the byte at the lower address is bits 15..8 (R82). -/
def joinBytes (hi lo : Byte) : Word := hi ++ lo

/-- Decode the front of a list of bytes, the byte at the lower address first (R82). -/
def decodeBytes : List Byte → Except DecodeReject (Instr × List Byte)
  | hi :: lo :: rest => (decodeWord (joinBytes hi lo)).map fun i => (i, rest)
  | _ => .error .tooShort

/-- The word that the low `nbits` bits of `w` make; every bit above is 0. -/
def tableWord (nbits w : Nat) : Word := BitVec.ofNat 16 (w % 2 ^ nbits)

/-- The two bytes of a word as memory holds them, the first at the lower address (R82). -/
def wordBytes (w : Word) : List Byte := [w.extractLsb 15 8, w.extractLsb 7 0]

/-- The instruction that the decoder reads from a word numbered as the opcode table numbers it. -/
def decodeTableWord (nbits w : Nat) : Option Instr :=
  match decodeBytes (wordBytes (tableWord nbits w)) with
  | .ok (i, _) => some i
  | .error _ => none

/-- The match value of an instruction's row (R120). -/
def Instr.pattern : Instr → Nat
  | .cls => 0x00E0
  | .ret => 0x00EE
  | .scd _ => 0x00C0
  | .scr => 0x00FB
  | .scl => 0x00FC
  | .exit => 0x00FD
  | .low => 0x00FE
  | .high => 0x00FF
  | .jp _ => 0x1000
  | .call _ => 0x2000
  | .seVxKk _ _ => 0x3000
  | .sneVxKk _ _ => 0x4000
  | .seVxVy _ _ => 0x5000
  | .ldVxKk _ _ => 0x6000
  | .addVxKk _ _ => 0x7000
  | .ldVxVy _ _ => 0x8000
  | .orVxVy _ _ => 0x8001
  | .andVxVy _ _ => 0x8002
  | .xorVxVy _ _ => 0x8003
  | .addVxVy _ _ => 0x8004
  | .subVxVy _ _ => 0x8005
  | .shrVxVy _ _ => 0x8006
  | .subnVxVy _ _ => 0x8007
  | .shlVxVy _ _ => 0x800E
  | .sneVxVy _ _ => 0x9000
  | .ldINnn _ => 0xA000
  | .jpV0Nnn _ => 0xB000
  | .rndVxKk _ _ => 0xC000
  | .drwVxVyN _ _ _ => 0xD000
  | .skpVx _ => 0xE09E
  | .sknpVx _ => 0xE0A1
  | .ldVxDt _ => 0xF007
  | .ldVxK _ => 0xF00A
  | .ldDtVx _ => 0xF015
  | .ldStVx _ => 0xF018
  | .addIVx _ => 0xF01E
  | .ldFVx _ => 0xF029
  | .ldHfVx _ => 0xF030
  | .ldBVx _ => 0xF033
  | .ldMemVx _ => 0xF055
  | .ldVxMem _ => 0xF065
  | .ldRVx _ => 0xF075
  | .ldVxR _ => 0xF085

/-- The word of an instruction: its row's match value with each operand in its field (R118, R120). -/
def encode (i : Instr) : Word := BitVec.ofNat 16 (i.pattern + i.operands.bits)

end Sys2Proof
end

