-- ==== Sys2Proof/Config.lean ====
section
/-! DEFINITION. What an implementation fixes: the open parameters of R10. Those with a default are the structure
`Config`, which State carries unchanged (log 2); those without one, and the draws of the machine, are opaque
constants, so that no proof can use a value of theirs (log 3, 4, 5, 13). -/

namespace Sys2Proof

/-- `QUIRK_LOADSTORE_I` (R10, D8): whether `LD [I],Vx` and `LD Vx,[I]` move `I`. -/
inductive LoadStoreI where
  | unchanged
  | plusXPlus1
  deriving DecidableEq, Repr

/-- `DRW0_NORMAL` (R10, D13): what `DRW Vx,Vy,0` does in normal mode. -/
inductive Drw0Normal where
  | fault
  | nothing
  | sprite16
  deriving DecidableEq, Repr

/-- `SCD_NORMAL` (R10, D14): what `SCD n` does in normal mode. -/
inductive ScdNormal where
  | fault
  | noop
  | scroll
  deriving DecidableEq, Repr

/-- `ADDI_VF` (R10, D9): which total function of the old `I` and the old `Vx` the flag of `ADD I,Vx` is. It is
the default reading, or a function of which nothing is known (log 3). DESIGN CHOICE: safe. -/
inductive AddiVf where
  | sumAboveByteMax
  | other
  deriving DecidableEq, Repr

/-- The parameters of R10 that have a default. -/
structure Config where
  /-- `HAS_SYS` (D3): the words 0nnn of no row are refused rather than DecodeFault. -/
  hasSys : Bool
  /-- `FLAG_LAST` (D6): the flag is written after the result. -/
  flagLast : Bool
  /-- `QUIRK_LOGIC_VF_RESET` (D7): OR, AND and XOR write 0 to VF. -/
  logicVfReset : Bool
  /-- `QUIRK_LOADSTORE_I` (D8). -/
  loadStoreI : LoadStoreI
  /-- `ADDI_VF` (D9). -/
  addiVf : AddiVf
  /-- `ALLOW_ODD_PC` (D12). -/
  allowOddPc : Bool
  /-- `DRW0_NORMAL` (D13). -/
  drw0Normal : Drw0Normal
  /-- `SCD_NORMAL` (D14). -/
  scdNormal : ScdNormal
  /-- `MODE_SWITCH_CLEARS` (D16). -/
  modeSwitchClears : Bool
  /-- `FONT_BASE` (D20): an address of `Memory`, hence 12 bits (log 11). -/
  fontBase : Addr
  /-- `SMALL_FONT` (D20): 16 glyphs of 5 bytes (R49). -/
  smallFont : Vector Byte 80
  /-- `R_PERSIST` (D26): LoadProgram keeps `R`. -/
  rPersist : Bool
  deriving DecidableEq, Repr

/-- The conventional small font of R49, glyphs 0 to 7. -/
def Config.smallGlyphs0to7 : List Byte :=
  [0xF0, 0x90, 0x90, 0x90, 0xF0] ++ [0x20, 0x60, 0x20, 0x20, 0x70] ++ [0xF0, 0x10, 0xF0, 0x80, 0xF0] ++
  [0xF0, 0x10, 0xF0, 0x10, 0xF0] ++ [0x90, 0x90, 0xF0, 0x10, 0x10] ++ [0xF0, 0x80, 0xF0, 0x10, 0xF0] ++
  [0xF0, 0x80, 0xF0, 0x90, 0xF0] ++ [0xF0, 0x10, 0x20, 0x40, 0x40]

/-- The conventional small font of R49, glyphs 8 to F. -/
def Config.smallGlyphs8toF : List Byte :=
  [0xF0, 0x90, 0xF0, 0x90, 0xF0] ++ [0xF0, 0x90, 0xF0, 0x10, 0xF0] ++ [0xF0, 0x90, 0xF0, 0x90, 0x90] ++
  [0xE0, 0x90, 0xE0, 0x90, 0xE0] ++ [0xF0, 0x80, 0x80, 0x80, 0xF0] ++ [0xE0, 0x90, 0x90, 0x90, 0xE0] ++
  [0xF0, 0x80, 0xF0, 0x80, 0xF0] ++ [0xF0, 0x80, 0xF0, 0x80, 0x80]

/-- The default of `SMALL_FONT` (R49, which marks it as general knowledge). -/
def Config.defaultSmallFont : Vector Byte 80 :=
  ⟨(Config.smallGlyphs0to7 ++ Config.smallGlyphs8toF).toArray, rfl⟩

/-- The defaults of R10. DESIGN CHOICE: unsafe where a claim is about these values only (log 2). -/
def Config.default : Config where
  hasSys := false
  flagLast := true
  logicVfReset := false
  loadStoreI := .unchanged
  addiVf := .sumAboveByteMax
  allowOddPc := false
  drw0Normal := .fault
  scdNormal := .fault
  modeSwitchClears := false
  fontBase := 0x000
  smallFont := Config.defaultSmallFont
  rPersist := false

/-- Byte k (0 to 159) of `BIG_FONT`, to which R50 gives no value: a free value (log 4). DESIGN CHOICE: safe. -/
opaque Config.bigFontByte : Nat → Byte

/-- The function `ADDI_VF` of an implementation that does not follow the default reading (R241, D9): a free value
of the old `I` and the old `Vx` (log 3). DESIGN CHOICE: safe. -/
opaque Config.addiVfOther : Word → Byte → Bool

/-- The draws of the machine (R16, D19) when the pending operation does not bring one: a free value of the draw's
number (log 5). DESIGN CHOICE: safe. -/
opaque Config.freeByte : Nat → Byte

/-- `BEEP_FREQ_HZ` (R10, D21), the 64 bits of an f64; no value is given, so a free value (log 13).
DESIGN CHOICE: safe. -/
opaque Config.beepFreqHz : BitVec 64

/-- `BEEP_DURATION_MS` (R10, D21), a u64; no value is given, so a free value (log 13). DESIGN CHOICE: safe. -/
opaque Config.beepDurationMs : BitVec 64

end Sys2Proof
end

