-- ==== Sys2Proof/Machine/State.lean ====
section
/-! DEFINITION. The state of the block: the fields of R30, each under the spec's name in lower case, and the model's own fields
after them (INVENTORY.md, State). Plain data throughout. -/

namespace Sys2Proof.Machine

/-- The fault causes of R310, in the order of their codes 1 to 10. -/
inductive FaultCause where
  | decodeFault
  | stackOverflow
  | stackUnderflow
  | glyphRangeFault
  | rplRangeFault
  | memRangeFault
  | fetchRangeFault
  | pcAlignFault
  | keyRangeFault
  | modeFault
  deriving DecidableEq, Repr

/-- `FaultInfo` (R53): the address of the faulting instruction and its opcode. -/
structure FaultInfo where
  addr : Word
  opcode : Word
  deriving DecidableEq, Repr

/-- The engine state of R54, derived and not stored. -/
inductive EngineState where
  | running
  | paused
  | exited
  | faulted
  deriving DecidableEq, Repr

/-- The inputs of one `tick` (R70, R330). `timerAfterExit` is the draw of R339: whether the timer step of a tick whose
cycle executed `EXIT` runs (log 8). -/
structure TickInput where
  keys : Vector Bool 16
  cycleDue : Bool
  timerDue : Bool
  rnd : Byte
  timerAfterExit : Bool
  deriving DecidableEq, Repr

/-- The operations of R8 and R72. A load whose file the host could not read brings `none`, and a save whose file it could
not write brings `false` (R327, log 15). -/
inductive HostOp where
  | tick (t : TickInput)
  | singleStep (rnd : Byte)
  | pause (b : Bool)
  | loadProgram (image : Option (List Byte))
  | loadState (stream : Option (List Byte))
  | saveState (writable : Bool)
  deriving DecidableEq, Repr

/-- The events the block emits (R71), the bytes `SaveState` returns (R383), and an I/O error reported to the caller
(R327). A picture is the mode and the lit entries of the whole pixel buffer. -/
inductive Output where
  | updateDisplay (extendedMode : Bool) (pixels : List Nat)
  | beep (freqHz durationMs : BitVec 64)
  | fault (cause : FaultCause) (info : FaultInfo)
  | saved (stream : List Byte)
  | ioError
  deriving DecidableEq, Repr

/-- Why the machine itself stops. The faults of R310 are none of these: raising one is a next state (log 16). -/
inductive Fault where
  /-- Raised by `CALL` and `RET` when `SP` is in 17..255, a depth that R35 says cannot arise and for which `Stack` has
  no entry (log 9). Safe: no run reaches such a state. -/
  | stackDepthImpossible
  deriving DecidableEq, Repr

/-- Why the model gives no next state. -/
inductive Refusal where
  /-- Raised by the dispatch for an instruction that has no meaning yet. Safe. -/
  | notModelled (mnemonic : String)
  /-- Raised by a cycle that fetches a word of the `SYS nnn` space under `HAS_SYS = true`: the spec says that the model
  refuses it (R123, R301; log 14). Safe. -/
  | sysNotDescribed
  deriving DecidableEq, Repr

/-- The state. -/
structure State where
  /-- `V[0..15]` (R31). -/
  v : Vector Byte 16
  /-- `I` (R33). -/
  i : Word
  /-- `PC` (R34). -/
  pc : Word
  /-- `SP`, the stack depth, held in 8 bits (R35). -/
  sp : Byte
  /-- `DT` (R37). -/
  dt : Byte
  /-- `ST` (R38). -/
  st : Byte
  /-- `IR` (R39). -/
  ir : Word
  /-- `Stack[0..15]` (R36). -/
  stack : Vector Word 16
  /-- `Memory[0..4095]` (R48): the cells that differ from the reset contents, addresses strictly rising (log 11). -/
  mem : List Host.Cell
  /-- `R[0..7]` (R40). -/
  r : Vector Byte 8
  /-- `Display.ExtendedMode` (R42). -/
  extendedMode : Bool
  /-- `Display.PixelBuffer[0..8191]` (R43): the indices of the entries that are 1, strictly rising (log 10). -/
  pixels : List Nat
  /-- `DisplayChanged` (R45). -/
  displayChanged : Bool
  /-- `Keyboard[0..15]` (R46). -/
  keyboard : Vector Bool 16
  /-- `Exited` (R47). -/
  exited : Bool
  /-- `paused` (R52). -/
  paused : Bool
  /-- `FaultCause` (R53); `none` is the spec's None. -/
  faultCause : Option FaultCause
  /-- `FaultInfo` (R53). -/
  faultInfo : FaultInfo
  /-- The model's own: the open parameters (R10), which no operation changes (log 2). -/
  config : Config
  /-- The model's own: the draw input of the cycle being run (R70, log 5). -/
  rnd : Byte
  /-- The model's own: how many draws the model has supplied (log 5). -/
  draws : Nat
  /-- The model's own: the operations the host still calls, oldest first (R72, log 6). -/
  pending : List HostOp
  /-- The model's own: the events emitted so far, newest first (R71, log 7). -/
  outputs : List Output
  deriving DecidableEq, Repr

/-- The machine right after power-up (R60, R371). The model's own fields hold the values of log 2, 5, 6 and 7:
DESIGN CHOICE. -/
def State.reset : State where
  v := Vector.replicate 16 0
  i := 0
  pc := 0x200
  sp := 0
  dt := 0
  st := 0
  ir := 0
  stack := Vector.replicate 16 0
  mem := []
  r := Vector.replicate 8 0
  extendedMode := false
  pixels := []
  displayChanged := true
  keyboard := Vector.replicate 16 false
  exited := false
  paused := false
  faultCause := none
  faultInfo := ⟨0, 0⟩
  config := Config.default
  rnd := 0
  draws := 0
  pending := []
  outputs := []

/-- What a meaning answers. -/
abbrev Result := Host.Outcome State Fault Refusal

end Sys2Proof.Machine
end

