-- ==== Sys2Proof/Machine/Ops.lean ====
section
/-! DEFINITION. The named operations over memory, the pixel buffer and the registers, and the raising of a fault (R311). -/

namespace Sys2Proof.Machine

/-! ### Memory (R80) -/

/-- What a byte holds at reset (R48, R51), and so what an address that `mem` does not list reads as: `SMALL_FONT`, then
`BIG_FONT`, from `FONT_BASE` on, and 0 elsewhere. -/
def Memory.unlisted (c : Config) (a : Nat) : Byte :=
  if a < c.fontBase.toNat then 0
  else if h : a - c.fontBase.toNat < 80 then c.smallFont[a - c.fontBase.toNat]
  else if a - c.fontBase.toNat < 240 then Config.bigFontByte (a - c.fontBase.toNat - 80)
  else 0

/-- Read one byte: the value listed for the address, or its reset contents. -/
def Memory.read (c : Config) (m : List Host.Cell) (a : Nat) : Byte :=
  match m with
  | [] => Memory.unlisted c a
  | (k, b) :: rest => if k = a then b else Memory.read c rest a

/-- The list with an address left out. -/
def Memory.erase (m : List Host.Cell) (a : Nat) : List Host.Cell :=
  match m with
  | [] => []
  | (k, b) :: rest => if k = a then rest else (k, b) :: Memory.erase rest a

/-- The list with a cell at its place in the rising order, in the stead of the cell that stood there. -/
def Memory.insert (m : List Host.Cell) (a : Nat) (b : Byte) : List Host.Cell :=
  match m with
  | [] => [(a, b)]
  | (k, b') :: rest =>
    if a < k then (a, b) :: (k, b') :: rest
    else if k = a then (a, b) :: rest
    else (k, b') :: Memory.insert rest a b

/-- Write one byte. Writing the reset contents of an address takes its cell out of the list. -/
def Memory.write (c : Config) (m : List Host.Cell) (a : Nat) (b : Byte) : List Host.Cell :=
  if b = Memory.unlisted c a then Memory.erase m a else Memory.insert m a b

/-- Write bytes at rising addresses from `a` on, the first at `a` (R86). -/
def Memory.writeBytes (c : Config) (m : List Host.Cell) (a : Nat) (bs : List Byte) : List Host.Cell :=
  match bs with
  | [] => m
  | b :: rest => Memory.writeBytes c (Memory.write c m a b) (a + 1) rest

/-- The canonical list of a memory given by its contents. -/
def Memory.ofContents (c : Config) (f : Nat → Byte) : List Host.Cell :=
  ((List.range 4096).filter fun a => f a != Memory.unlisted c a).map fun a => (a, f a)

/-- The canonical form: addresses below 4096, strictly rising, and no cell equal to its reset contents. -/
def Memory.wf (c : Config) (m : List Host.Cell) : Bool :=
  decide (m.Pairwise fun p q => p.1 < q.1) && m.all fun p => decide (p.1 < 4096) && p.2 != Memory.unlisted c p.1

/-! ### The pixel buffer (R43), as the rising list of the entries that are 1 -/

/-- Whether entry `k` of `PixelBuffer` is 1. -/
def Pixels.lit (p : List Nat) (k : Nat) : Bool := p.contains k

/-- `PixelBuffer[k] <- PixelBuffer[k] ^ 1`. -/
def Pixels.flip (p : List Nat) (k : Nat) : List Nat :=
  match p with
  | [] => [k]
  | a :: rest => if k < a then k :: a :: rest else if a = k then rest else a :: Pixels.flip rest k

/-- Clear the entries below `n` (R181). -/
def Pixels.clearBelow (p : List Nat) (n : Nat) : List Nat := p.filter fun k => decide (n ≤ k)

/-- Move each lit pixel of a `w × h` picture down by `n` rows; those pushed past the bottom are lost (R185). Entries outside
the picture stay. -/
def Pixels.scrollDown (p : List Nat) (w h n : Nat) : List Nat :=
  p.filterMap fun k => if k < w * h then (if k / w + n < h then some (k + n * w) else none) else some k

/-- Move each lit pixel of a `w × h` picture right by 4 columns; those pushed past the edge are lost (R186). -/
def Pixels.scrollRight (p : List Nat) (w h : Nat) : List Nat :=
  p.filterMap fun k => if k < w * h then (if k % w + 4 < w then some (k + 4) else none) else some k

/-- Move each lit pixel of a `w × h` picture left by 4 columns; those pushed past the edge are lost (R187). -/
def Pixels.scrollLeft (p : List Nat) (w h : Nat) : List Nat :=
  p.filterMap fun k => if k < w * h then (if 4 ≤ k % w then some (k - 4) else none) else some k

/-- The canonical form: entries of the buffer, strictly rising. -/
def Pixels.wf (p : List Nat) : Bool :=
  decide (p.Pairwise fun a b => a < b) && p.all fun k => decide (k < 8192)

/-- The entries that the set bits of a sprite fall on, in the order of the loops of R182: row `r`, column `c`, most
significant bit leftmost, each pixel wrapped on its own. -/
def Pixels.spritePoints (w h xs ys rows cols : Nat) (rowbits : Nat → Nat) : List Nat :=
  (List.range rows).flatMap fun r =>
    ((List.range cols).filter fun c => (rowbits r).testBit (cols - 1 - c)).map fun c =>
      (ys + r) % h * w + (xs + c) % w

/-- The body of the loops of R182: note a collision with a lit pixel, then flip the pixel. -/
def Pixels.xorPoints (p : List Nat) (collide : Bool) (points : List Nat) : List Nat × Bool :=
  match points with
  | [] => (p, collide)
  | k :: rest => Pixels.xorPoints (Pixels.flip p k) (collide || Pixels.lit p k) rest

/-! ### Registers and state -/

/-- `VF`, the flag register (R32). -/
def vF : Reg := 15

/-- Read `V[x]` (R12). -/
def State.getV (s : State) (x : Reg) : Byte := s.v[x.val]

/-- `V[x] <- b` (R12). -/
def State.setV (s : State) (x : Reg) (b : Byte) : State := { s with v := s.v.set x.val b }

/-- `V[k] <- f k` for each k in 0..x. -/
def State.setVUpTo (s : State) (x : Reg) (f : Nat → Byte) : State :=
  { s with v := Vector.ofFn fun k => if k.val ≤ x.val then f k.val else s.v[k.val] }

/-- `R[k] <- f k` for each k in 0..x that `R` has. -/
def State.setRUpTo (s : State) (x : Reg) (f : Nat → Byte) : State :=
  { s with r := Vector.ofFn fun k => if k.val ≤ x.val then f k.val else s.r[k.val] }

/-- `I <- w`. -/
def State.setI (s : State) (w : Word) : State := { s with i := w }

/-- `PC <- w`. -/
def State.setPc (s : State) (w : Word) : State := { s with pc := w }

/-- `SP <- b`. -/
def State.setSp (s : State) (b : Byte) : State := { s with sp := b }

/-- `Stack[k] <- w`, for an entry that `Stack` has. -/
def State.setStack (s : State) (k : Nat) (w : Word) : State := { s with stack := s.stack.setIfInBounds k w }

/-- `DT <- b`. -/
def State.setDt (s : State) (b : Byte) : State := { s with dt := b }

/-- `ST <- b`. -/
def State.setSt (s : State) (b : Byte) : State := { s with st := b }

/-- A new pixel buffer, with `DisplayChanged <- true` (R45). -/
def State.setPixels (s : State) (p : List Nat) : State := { s with pixels := p, displayChanged := true }

/-- Switch the display mode, with `DisplayChanged <- true`; `MODE_SWITCH_CLEARS` zeroes the whole buffer (R188). -/
def State.switchMode (s : State) (ext : Bool) : State :=
  { s with extendedMode := ext, displayChanged := true, pixels := if s.config.modeSwitchClears then [] else s.pixels }

/-- The keyboard sample (R332). -/
def State.setKeyboard (s : State) (keys : Vector Bool 16) : State := { s with keyboard := keys }

/-- `Exited <- true`. -/
def State.setExited (s : State) : State := { s with exited := true }

/-- Read one byte of `Memory` (R14). -/
def State.readByte (s : State) (a : Nat) : Byte := Memory.read s.config s.mem a

/-- Write bytes of `Memory` from `a` on, in rising address order (R14, R86). -/
def State.writeBytes (s : State) (a : Nat) (bs : List Byte) : State :=
  { s with mem := Memory.writeBytes s.config s.mem a bs }

/-- `Width()` (R15). -/
def State.width (s : State) : Nat := if s.extendedMode then 128 else 64

/-- `Height()` (R15). -/
def State.height (s : State) : Nat := if s.extendedMode then 64 else 32

/-- `Pixel(x, y)` (R44): whether it is 1. -/
def State.pixel (s : State) (x y : Nat) : Bool := Pixels.lit s.pixels (y * s.width + x)

/-- Send an event to the platform (R71). -/
def State.emit (s : State) (o : Output) : State := { s with outputs := o :: s.outputs }

/-- The engine state (R54). -/
def State.engine (s : State) : EngineState :=
  if s.faultCause.isSome then .faulted else if s.exited then .exited else if s.paused then .paused else .running

/-- Neither Exited nor Faulted: the engine may still run cycles and timer steps (R338). -/
def State.live (s : State) : Bool := s.faultCause.isNone && !s.exited

/-! ### Raising a fault (R311) -/

/-- The numeric code of a cause (R310). -/
def FaultCause.code : FaultCause → Nat
  | .decodeFault => 1
  | .stackOverflow => 2
  | .stackUnderflow => 3
  | .glyphRangeFault => 4
  | .rplRangeFault => 5
  | .memRangeFault => 6
  | .fetchRangeFault => 7
  | .pcAlignFault => 8
  | .keyRangeFault => 9
  | .modeFault => 10

/-- `raise F(info)` (R311): record the cause and the information and emit the fault event. Nothing else changes; the sequencer
then leaves out the display push and the timer step, and no operation but a load leaves the Faulted state (R326). -/
def State.raise (s : State) (cause : FaultCause) (info : FaultInfo) : State :=
  ({ s with faultCause := some cause, faultInfo := info }).emit (.fault cause info)

/-- `raise F(PC_fetch, IR)` from a handler, which sees `PC = PC_fetch + 2` (R113, R311). -/
def State.raiseHere (s : State) (cause : FaultCause) : State := s.raise cause ⟨s.pc - 2, s.ir⟩

end Sys2Proof.Machine
end

