-- ==== Sys2Proof/Machine/Flags.lean ====
section
/-! DEFINITION. The flag computations: each result of the five flag-setting instructions with its flag (R157 to R161), the flag of
`ADD I,Vx` (R241), and the order of the two writes (R150). Operands are read as unsigned integers, the exact result is
compared, and the narrow result wraps (R163). -/

namespace Sys2Proof.Machine

/-- A flag as a byte of `VF`: 1 or 0. -/
def flagByte (f : Bool) : Byte := if f then 1 else 0

/-- The 8-bit result of an operation and its flag. -/
structure Flagged where
  result : Byte
  flag : Bool
  deriving DecidableEq, Repr

/-- `ADD Vx,Vy` (R157): the flag is the carry out. -/
def flaggedAdd (a b : Byte) : Flagged := ⟨a + b, decide (a.toNat + b.toNat > 0xFF)⟩

/-- `SUB Vx,Vy` (R158): the flag is 1 iff the minuend is strictly greater (C2). -/
def flaggedSub (a b : Byte) : Flagged := ⟨a - b, decide (a.toNat > b.toNat)⟩

/-- `SUBN Vx,Vy` (R160): `b - a`, the flag is 1 iff `b` is strictly greater. -/
def flaggedSubn (a b : Byte) : Flagged := ⟨b - a, decide (b.toNat > a.toNat)⟩

/-- `SHR Vx` (R159): the flag is the bit shifted out, bit 0. -/
def flaggedShr (a : Byte) : Flagged := ⟨a >>> 1, a.getLsbD 0⟩

/-- `SHL Vx` (R161): the flag is the bit shifted out, bit 7. -/
def flaggedShl (a : Byte) : Flagged := ⟨a <<< 1, a.getLsbD 7⟩

/-- The write step of R150: the flag after the result, or before it when `FLAG_LAST` is false. The order matters only for
X = F (D6). -/
def State.writeFlagged (s : State) (x : Reg) (f : Flagged) : State :=
  if s.config.flagLast then (s.setV x f.result).setV vF (flagByte f.flag)
  else (s.setV vF (flagByte f.flag)).setV x f.result

/-- The write step of `OR`, `AND` and `XOR` (R154): under `QUIRK_LOGIC_VF_RESET` VF is zeroed last. -/
def State.writeLogic (s : State) (x : Reg) (b : Byte) : State :=
  if s.config.logicVfReset then (s.setV x b).setV vF 0 else s.setV x b

/-- `ADDI_VF` (R241, D9) of the old `I` and the old `Vx`. -/
def addiFlag (c : Config) (i : Word) (v : Byte) : Bool :=
  match c.addiVf with
  | .sumAboveByteMax => decide (i.toNat + v.toNat > 0xFF)
  | .other => Config.addiVfOther i v

end Sys2Proof.Machine
end

