-- ==== Sys2Proof/Machine/Alu.lean ====
section
/-! DEFINITION. The meanings of the ALU path (40_alu.md). None raises a fault, and none changes `PC` (R150). -/

namespace Sys2Proof.Machine

/-- `LD Vx,kk` (R151). -/
def execLdVxKk (x : Reg) (kk : Byte) (s : State) : Result := .next (s.setV x kk)

/-- `ADD Vx,kk` (R152): wraps, writes no flag. -/
def execAddVxKk (x : Reg) (kk : Byte) (s : State) : Result := .next (s.setV x (s.getV x + kk))

/-- `LD Vx,Vy` (R153). -/
def execLdVxVy (x y : Reg) (s : State) : Result := .next (s.setV x (s.getV y))

/-- `OR Vx,Vy` (R154). -/
def execOrVxVy (x y : Reg) (s : State) : Result := .next (s.writeLogic x (s.getV x ||| s.getV y))

/-- `AND Vx,Vy` (R155). -/
def execAndVxVy (x y : Reg) (s : State) : Result := .next (s.writeLogic x (s.getV x &&& s.getV y))

/-- `XOR Vx,Vy` (R156). -/
def execXorVxVy (x y : Reg) (s : State) : Result := .next (s.writeLogic x (s.getV x ^^^ s.getV y))

/-- `ADD Vx,Vy` (R157). -/
def execAddVxVy (x y : Reg) (s : State) : Result := .next (s.writeFlagged x (flaggedAdd (s.getV x) (s.getV y)))

/-- `SUB Vx,Vy` (R158). -/
def execSubVxVy (x y : Reg) (s : State) : Result := .next (s.writeFlagged x (flaggedSub (s.getV x) (s.getV y)))

/-- `SHR Vx{,Vy}` (R159): `V[Y]` is not read. -/
def execShrVxVy (x _y : Reg) (s : State) : Result := .next (s.writeFlagged x (flaggedShr (s.getV x)))

/-- `SUBN Vx,Vy` (R160). -/
def execSubnVxVy (x y : Reg) (s : State) : Result := .next (s.writeFlagged x (flaggedSubn (s.getV x) (s.getV y)))

/-- `SHL Vx{,Vy}` (R161): `V[Y]` is not read. -/
def execShlVxVy (x _y : Reg) (s : State) : Result := .next (s.writeFlagged x (flaggedShl (s.getV x)))

/-- `RND Vx,kk` (R162): the cycle's draw, masked (log 5). -/
def execRndVxKk (x : Reg) (kk : Byte) (s : State) : Result := .next (s.setV x (s.rnd &&& kk))

end Sys2Proof.Machine
end

