-- ==== Sys2Proof/Machine/Operands.lean ====
section
/-! DEFINITION. The operand forms (R119): a zero-extended address, the data range at `I` (the one addressing mode), the sprite rows in
memory, the registers V0..Vx as bytes, and the keys. -/

namespace Sys2Proof.Machine

/-- `zext_16(nnn)` (R119). -/
def zext16 (nnn : Addr) : Word := nnn.zeroExtend 16

/-- The whole-range check of R84 for an access to `I .. I + last`: every address is at most 0xFFF. The sum is unbounded
(R13), so there is no wrap. -/
def State.dataRangeOk (s : State) (last : Nat) : Bool := decide (s.i.toNat + last ≤ 0xFFF)

/-- Row `r` of an 8-column sprite at `I` (R183). -/
def State.spriteRow8 (s : State) (r : Nat) : Nat := (s.readByte (s.i.toNat + r)).toNat

/-- Row `r` of a 16-column sprite at `I`: the left byte first (R184, D15). -/
def State.spriteRow16 (s : State) (r : Nat) : Nat :=
  (s.readByte (s.i.toNat + 2 * r) ++ s.readByte (s.i.toNat + 2 * r + 1) : Word).toNat

/-- `V0..Vx`, the bytes that `LD [I],Vx` stores (R245). -/
def State.regsUpTo (s : State) (x : Reg) : List Byte := s.v.toList.take (x.val + 1)

/-- The three decimal digits of a byte, most significant first (R244). -/
def bcdDigits (b : Byte) : List Byte :=
  [BitVec.ofNat 8 (b.toNat / 100), BitVec.ofNat 8 (b.toNat / 10 % 10), BitVec.ofNat 8 (b.toNat % 10)]

/-- `Keyboard[k]` for the key that a register names; a key index of 16 or more has no entry (R220). -/
def State.keyHeld (s : State) (k : Byte) : Bool := s.keyboard.toList.getD k.toNat false

/-- The lowest-indexed held key (R222). -/
def State.lowestKey (s : State) : Option Nat := s.keyboard.toList.findIdx? (· = true)

/-- The skip of R270: `PC <- PC + 2` on top of the advance, when the condition holds. -/
def State.skipIf (s : State) (cond : Bool) : State := if cond then s.setPc (s.pc + 2) else s

/-- Draw a sprite at (xs, ys) and report the collision in VF, written after all pixels (R182, R183). -/
def State.drawSprite (s : State) (xs ys : Byte) (rows cols : Nat) (rowbits : Nat → Nat) : State :=
  let drawn := Pixels.xorPoints s.pixels false
    (Pixels.spritePoints s.width s.height xs.toNat ys.toNat rows cols rowbits)
  (s.setPixels drawn.1).setV vF (if drawn.2 then 1 else 0)

end Sys2Proof.Machine
end

