-- ==== Sys2Proof/Machine/Control.lean ====
section
/-! DEFINITION. The meanings of the control transfers (44_control_flow.md). Targets are not checked here but at the next fetch
(R270). -/

namespace Sys2Proof.Machine

/-- `RET` (R271): decrement, then read. A depth above 16 has no entry to read (log 9). -/
def execRet (s : State) : Result :=
  if s.sp = 0 then .next (s.raiseHere .stackUnderflow)
  else if h : s.sp.toNat - 1 < 16 then .next ((s.setSp (s.sp - 1)).setPc s.stack[s.sp.toNat - 1])
  else .fault .stackDepthImpossible

/-- `JP nnn` (R272). -/
def execJp (nnn : Addr) (s : State) : Result := .next (s.setPc (zext16 nnn))

/-- `CALL nnn` (R273): `PC` is already the return address. A depth above 16 has no entry to write (log 9). -/
def execCall (nnn : Addr) (s : State) : Result :=
  if s.sp = 16 then .next (s.raiseHere .stackOverflow)
  else if s.sp.toNat < 16 then
    .next (((s.setStack s.sp.toNat s.pc).setSp (s.sp + 1)).setPc (zext16 nnn))
  else .fault .stackDepthImpossible

/-- `SE Vx,kk` (R274). -/
def execSeVxKk (x : Reg) (kk : Byte) (s : State) : Result := .next (s.skipIf (s.getV x == kk))

/-- `SNE Vx,kk` (R275). -/
def execSneVxKk (x : Reg) (kk : Byte) (s : State) : Result := .next (s.skipIf (s.getV x != kk))

/-- `SE Vx,Vy` (R276). -/
def execSeVxVy (x y : Reg) (s : State) : Result := .next (s.skipIf (s.getV x == s.getV y))

/-- `SNE Vx,Vy` (R277). -/
def execSneVxVy (x y : Reg) (s : State) : Result := .next (s.skipIf (s.getV x != s.getV y))

/-- `JP V0,nnn` (R278): the register is always `V[0]`. -/
def execJpV0Nnn (nnn : Addr) (s : State) : Result :=
  .next (s.setPc (zext16 nnn + (s.getV 0).zeroExtend 16))

end Sys2Proof.Machine
end

