-- ==== Sys2Proof/Machine/Display.lean ====
section
/-! DEFINITION. The meanings of the display instructions (41_display.md). None changes `PC` further. -/

namespace Sys2Proof.Machine

/-- `CLS` (R181): the visible entries of the current mode. -/
def execCls (s : State) : Result := .next (s.setPixels (Pixels.clearBelow s.pixels (s.width * s.height)))

/-- The `8 × n` form of `DRW` (R183, n > 0). -/
def State.drawRows8 (s : State) (x y : Reg) (n : Nat) : State :=
  if s.dataRangeOk (n - 1) then s.drawSprite (s.getV x) (s.getV y) n 8 s.spriteRow8
  else s.raiseHere .memRangeFault

/-- The `16 × 16` form of `DRW` (R184). -/
def State.drawRows16 (s : State) (x y : Reg) : State :=
  if s.dataRangeOk 31 then s.drawSprite (s.getV x) (s.getV y) 16 16 s.spriteRow16
  else s.raiseHere .memRangeFault

/-- `DRW Vx,Vy,n` (R183). With n = 0 in normal mode `DRW0_NORMAL` decides (D13). -/
def execDrwVxVyN (x y : Reg) (n : Nibble) (s : State) : Result :=
  if 0 < n.val then .next (s.drawRows8 x y n.val)
  else if s.extendedMode then .next (s.drawRows16 x y)
  else
    match s.config.drw0Normal with
    | .sprite16 => .next (s.drawRows16 x y)
    | .nothing => .next ((s.setPixels s.pixels).setV vF 0)
    | .fault => .next (s.raiseHere .modeFault)

/-- The scroll of `SCD` in the current bounds (R185). -/
def State.scrollDownBy (s : State) (n : Nat) : State :=
  s.setPixels (Pixels.scrollDown s.pixels s.width s.height n)

/-- `SCD n` (R185). In normal mode `SCD_NORMAL` decides (D14). -/
def execScd (n : Nibble) (s : State) : Result :=
  if s.extendedMode then .next (s.scrollDownBy n.val)
  else
    match s.config.scdNormal with
    | .fault => .next (s.raiseHere .modeFault)
    | .noop => .next s
    | .scroll => .next (s.scrollDownBy n.val)

/-- `SCR` (R186). -/
def execScr (s : State) : Result := .next (s.setPixels (Pixels.scrollRight s.pixels s.width s.height))

/-- `SCL` (R187). -/
def execScl (s : State) : Result := .next (s.setPixels (Pixels.scrollLeft s.pixels s.width s.height))

/-- `HIGH` (R189): nothing happens in extended mode. -/
def execHigh (s : State) : Result := .next (if s.extendedMode then s else s.switchMode true)

/-- `LOW` (R190): nothing happens in normal mode. -/
def execLow (s : State) : Result := .next (if s.extendedMode then s.switchMode false else s)

end Sys2Proof.Machine
end

