-- ==== Sys2Proof/Machine/IndexMemory.lean ====
section
/-! DEFINITION. The meanings of the index register, glyph, memory and RPL instructions (43_index_memory.md). -/

namespace Sys2Proof.Machine

/-- `LD I,nnn` (R240). -/
def execLdINnn (nnn : Addr) (s : State) : Result := .next (s.setI (zext16 nnn))

/-- `ADD I,Vx` (R241): the sum is 16-bit, the flag is `ADDI_VF` of the old values (log 3). -/
def execAddIVx (x : Reg) (s : State) : Result :=
  .next ((s.setI (s.i + (s.getV x).zeroExtend 16)).setV vF (flagByte (addiFlag s.config s.i (s.getV x))))

/-- `LD F,Vx` (R242): the small glyph of digit `Vx`; the digit is not masked. -/
def execLdFVx (x : Reg) (s : State) : Result :=
  .next (if 16 ≤ (s.getV x).toNat then s.raiseHere .glyphRangeFault
    else s.setI (BitVec.ofNat 16 (s.config.fontBase.toNat + 5 * (s.getV x).toNat)))

/-- `LD HF,Vx` (R243): the large glyph of digit `Vx`. -/
def execLdHfVx (x : Reg) (s : State) : Result :=
  .next (if 16 ≤ (s.getV x).toNat then s.raiseHere .glyphRangeFault
    else s.setI (BitVec.ofNat 16 (s.config.fontBase.toNat + 0x50 + 10 * (s.getV x).toNat)))

/-- `LD B,Vx` (R244). -/
def execLdBVx (x : Reg) (s : State) : Result :=
  .next (if s.dataRangeOk 2 then s.writeBytes s.i.toNat (bcdDigits (s.getV x)) else s.raiseHere .memRangeFault)

/-- The move of `I` after a load or store of V0..Vx under `QUIRK_LOADSTORE_I` (R245, D8). -/
def State.afterLoadStore (s : State) (x : Reg) : State :=
  match s.config.loadStoreI with
  | .unchanged => s
  | .plusXPlus1 => s.setI (s.i + BitVec.ofNat 16 (x.val + 1))

/-- `LD [I],Vx` (R245). -/
def execLdMemVx (x : Reg) (s : State) : Result :=
  .next (if s.dataRangeOk x.val then (s.writeBytes s.i.toNat (s.regsUpTo x)).afterLoadStore x
    else s.raiseHere .memRangeFault)

/-- `LD Vx,[I]` (R246). -/
def execLdVxMem (x : Reg) (s : State) : Result :=
  .next (if s.dataRangeOk x.val then (s.setVUpTo x fun k => s.readByte (s.i.toNat + k)).afterLoadStore x
    else s.raiseHere .memRangeFault)

/-- `LD R,Vx` (R247): the index tested is the field X. -/
def execLdRVx (x : Reg) (s : State) : Result :=
  .next (if 8 ≤ x.val then s.raiseHere .rplRangeFault else s.setRUpTo x fun k => s.v.toList.getD k 0)

/-- `LD Vx,R` (R248). -/
def execLdVxR (x : Reg) (s : State) : Result :=
  .next (if 8 ≤ x.val then s.raiseHere .rplRangeFault else s.setVUpTo x fun k => s.r.toList.getD k 0)

end Sys2Proof.Machine
end

