-- ==== Sys2Proof/Machine/KeysTimers.lean ====
section
/-! DEFINITION. The meanings of the keyboard and timer instructions (42_keys_timers.md). -/

namespace Sys2Proof.Machine

/-- `SKP Vx` (R220): KeyRangeFault for a key index of 16 or more (D18). -/
def execSkpVx (x : Reg) (s : State) : Result :=
  .next (if 16 ≤ (s.getV x).toNat then s.raiseHere .keyRangeFault else s.skipIf (s.keyHeld (s.getV x)))

/-- `SKNP Vx` (R221). -/
def execSknpVx (x : Reg) (s : State) : Result :=
  .next (if 16 ≤ (s.getV x).toNat then s.raiseHere .keyRangeFault else s.skipIf (!s.keyHeld (s.getV x)))

/-- `LD Vx,K` (R222): with no key held `PC` goes back to the instruction, which runs again. -/
def execLdVxK (x : Reg) (s : State) : Result :=
  .next (match s.lowestKey with
    | none => s.setPc (s.pc - 2)
    | some k => s.setV x (BitVec.ofNat 8 k))

/-- `LD Vx,DT` (R223). -/
def execLdVxDt (x : Reg) (s : State) : Result := .next (s.setV x s.dt)

/-- `LD DT,Vx` (R224). -/
def execLdDtVx (x : Reg) (s : State) : Result := .next (s.setDt (s.getV x))

/-- `LD ST,Vx` (R225): requests no beep. -/
def execLdStVx (x : Reg) (s : State) : Result := .next (s.setSt (s.getV x))

end Sys2Proof.Machine
end

