-- ==== Sys2Proof/Machine/System.lean ====
section
/-! DEFINITION. The meaning of the one system instruction (45_system.md). -/

namespace Sys2Proof.Machine

/-- `EXIT` (R300): `PC` keeps its advanced value, and the cycle still pushes the display. -/
def execExit (s : State) : Result := .next s.setExited

end Sys2Proof.Machine
end

