-- ==== Sys2Proof/Machine/Cycle.lean ====
section
/-! DEFINITION. The cycle and tick sequencer: fetch, decode, execute, display push (R111 to R115, R331), the timer step (R340), the
tick (R330), the single step (R337) and pause (R336). -/

namespace Sys2Proof.Machine

/-- The fetch checks of R112, in their order. -/
def State.fetchFault (s : State) : Option FaultCause :=
  if s.pc.getLsbD 0 && !s.config.allowOddPc then some .pcAlignFault
  else if 0xFFF < s.pc.toNat + 1 then some .fetchRangeFault
  else none

/-- `MemRead(PC, 2)`: big-endian, the byte at the lower address is bits 15..8 (R82, R111). -/
def State.fetchWord (s : State) : Word := joinBytes (s.readByte s.pc.toNat) (s.readByte (s.pc.toNat + 1))

/-- The state after fetch: `IR` holds the word and `PC` is advanced by 2 (R111, R113). -/
def State.fetched (s : State) : State := { s with ir := s.fetchWord, pc := s.pc + 2 }

/-- The display push that ends a cycle without a fault (R115). -/
def State.pushDisplay (s : State) : State :=
  if s.displayChanged then { s.emit (.updateDisplay s.extendedMode s.pixels) with displayChanged := false } else s

/-- What follows the handler: the push, unless it raised a fault (R115, R311). -/
def endCycle (o : Result) : Result :=
  match o with
  | .next s => .next (if s.faultCause.isSome then s else s.pushDisplay)
  | .fault f => .fault f
  | .refused r => .refused r

/-- Decode the fetched word and run its handler, on the state after fetch (R114). A word of no row raises DecodeFault; one of
the SYS space is refused under `HAS_SYS` (R301). -/
def execFetched (s : State) : Result :=
  match decodeWord s.ir with
  | .ok i => endCycle (exec i s)
  | .error .sysSpace => if s.config.hasSys then .refused .sysNotDescribed else .next (s.raiseHere .decodeFault)
  | .error _ => .next (s.raiseHere .decodeFault)

/-- One cycle (R331), with the draw that `RND` reads. A fetch fault leaves IR and PC as they were, and records opcode 0
(R311). -/
def cycle (rnd : Byte) (s : State) : Result :=
  match s.fetchFault with
  | some f => .next ({ s with rnd := rnd }.raise f ⟨s.pc, 0⟩)
  | none => execFetched { s.fetched with rnd := rnd }

/-- The timer step (R340): each timer counts down to 0 and stays there; `ST` going from 1 to 0 requests one beep (R341). -/
def State.timerStep (s : State) : State :=
  let s1 := if s.dt = 0 then s else s.setDt (s.dt - 1)
  if s.st = 0 then s1
  else if s.st = 1 then (s1.setSt 0).emit (.beep Config.beepFreqHz Config.beepDurationMs)
  else s1.setSt (s.st - 1)

/-- Step (3) of a tick (R330). -/
def State.timerStepIf (s : State) (due : Bool) : State := if due then s.timerStep else s

/-- What follows the cycle of a tick (R330): a fault ends the tick, after EXIT the timer step is a draw (R339), and otherwise it
runs when due. -/
def afterCycle (t : TickInput) (o : Result) : Result :=
  match o with
  | .next s =>
    match s.engine with
    | .faulted => .next s
    | .exited => .next (s.timerStepIf (t.timerDue && t.timerAfterExit))
    | .running => .next (s.timerStepIf t.timerDue)
    | .paused => .next (s.timerStepIf t.timerDue)
  | .fault f => .fault f
  | .refused r => .refused r

/-- `tick` (R330): keyboard sample, at most one cycle, at most one timer step; nothing in a terminal state (R338). -/
def tick (t : TickInput) (s : State) : Result :=
  if s.live then
    let s1 := s.setKeyboard t.keys
    if t.cycleDue && !s1.paused then afterCycle t (cycle t.rnd s1) else .next (s1.timerStepIf t.timerDue)
  else .next s

/-- `step(rnd)` (R337): one cycle, whether Running or Paused; nothing in a terminal state. -/
def singleStep (rnd : Byte) (s : State) : Result := if s.live then cycle rnd s else .next s

/-- `pause(b)` (R336): nothing in a terminal state. -/
def pause (b : Bool) (s : State) : State := if s.live then { s with paused := b } else s

end Sys2Proof.Machine
end

