-- ==== Sys2Proof/Machine/HostOps.lean ====
section
/-! DEFINITION. Reset and the load and save operations (70_reset_and_hazards.md), and the performing of a host operation (R72). -/

namespace Sys2Proof.Machine

/-- `reset()` (R370): the fields of R60 take their reset values; `paused` stays, and so do the model's own fields (log 20). -/
def State.resetAll (s : State) : State :=
  { State.reset with
    paused := s.paused, config := s.config, rnd := s.rnd, draws := s.draws, pending := s.pending, outputs := s.outputs }

/-- The state after an accepted `LoadProgram(image)` (R380). -/
def State.withProgram (s : State) (image : List Byte) : State :=
  { s.resetAll with
    r := if s.config.rPersist then s.r else s.resetAll.r
    mem := Memory.writeBytes s.config s.resetAll.mem 0x200 image
    pc := 0x200 }

/-- `LoadProgram(image)` (R380): an unreadable image, or one over 3584 bytes (R381), is an I/O error that leaves the block
unchanged (R327). -/
def loadProgram (image : Option (List Byte)) (s : State) : State :=
  match image with
  | none => s.emit .ioError
  | some bytes => if bytes.length ≤ 3584 then s.withProgram bytes else s.emit .ioError

/-- A 16-bit value as the stream holds it: low byte first (R384). -/
def wordLE (w : Word) : List Byte := [w.extractLsb 7 0, w.extractLsb 15 8]

/-- A Boolean as the stream holds it: 1 or 0 (R384). -/
def boolByte (b : Bool) : Byte := if b then 1 else 0

/-- The stream of `SaveState()`, in the field order of R383 and the layout of R384. -/
def State.saveBytes (s : State) : List Byte :=
  s.v.toList ++ wordLE s.i ++ wordLE s.pc ++ [s.sp, s.dt, s.st] ++ s.stack.toList.flatMap wordLE ++
  (List.range 4096).map s.readByte ++ s.r.toList ++ [boolByte s.extendedMode] ++
  (List.range 8192).map (fun k => boolByte (Pixels.lit s.pixels k)) ++ [boolByte s.exited]

/-- The 16-bit value at an offset of a stream (R384). -/
def streamWord (b : Array Byte) (k : Nat) : Word := b.getD (k + 1) 0 ++ b.getD k 0

/-- `valid(bytes)` (R386). -/
def validStream (b : Array Byte) : Bool :=
  b.size == 12353 && decide (b.getD 20 0 ≤ 16) && decide (b.getD 4159 0 ≤ 1) && decide (b.getD 12352 0 ≤ 1) &&
  (List.range 8192).all fun k => decide (b.getD (4160 + k) 0 ≤ 1)

/-- The state after an accepted `LoadState` (R385): reset, then every field of the stream at its offset (R384), then
`DisplayChanged <- true`. -/
def State.withStream (s : State) (b : Array Byte) : State :=
  { s.resetAll with
    v := Vector.ofFn fun k => b.getD k.val 0
    i := streamWord b 16
    pc := streamWord b 18
    sp := b.getD 20 0
    dt := b.getD 21 0
    st := b.getD 22 0
    stack := Vector.ofFn fun k => streamWord b (23 + 2 * k.val)
    mem := Memory.ofContents s.config fun a => b.getD (55 + a) 0
    r := Vector.ofFn fun k => b.getD (4151 + k.val) 0
    extendedMode := b.getD 4159 0 == 1
    pixels := (List.range 8192).filter fun k => b.getD (4160 + k) 0 == 1
    exited := b.getD 12352 0 == 1
    displayChanged := true }

/-- `LoadState(bytes)` (R385): an unreadable or invalid stream is an I/O error that leaves the block unchanged (R386, R327). -/
def loadState (stream : Option (List Byte)) (s : State) : State :=
  match stream with
  | none => s.emit .ioError
  | some bytes => if validStream bytes.toArray then s.withStream bytes.toArray else s.emit .ioError

/-- `SaveState()` (R383): returns the stream and changes nothing in the block; a failed write is an I/O error (R327). -/
def saveState (writable : Bool) (s : State) : State :=
  if writable then s.emit (.saved s.saveBytes) else s.emit .ioError

/-- Perform one host operation (R8, R72). -/
def perform (op : HostOp) (s : State) : Result :=
  match op with
  | .tick t => tick t s
  | .singleStep rnd => singleStep rnd s
  | .pause b => .next (pause b s)
  | .loadProgram image => .next (loadProgram image s)
  | .loadState stream => .next (loadState stream s)
  | .saveState writable => .next (saveState writable s)

/-- The operation of a host that has none pending: it calls `step(rnd)` with a draw of its own (R337, D19; log 5, 6). In a
terminal state that does nothing. -/
def freeStep (s : State) : Result :=
  if s.live then cycle (Config.freeByte s.draws) { s with draws := s.draws + 1 } else .next s

/-- One step of the machine: the host's next operation, taken off the list of those pending, or the free step (log 6). -/
def hostStep (s : State) : Result :=
  match s.pending with
  | [] => freeStep s
  | op :: rest => perform op { s with pending := rest }

/-- The state with a word stored where the next cycle fetches, and no operation pending before that cycle (log 12). -/
def State.storeFetchWord (s : State) (nbits w : Nat) : State :=
  { s.writeBytes s.pc.toNat (wordBytes (tableWord nbits w)) with pending := [] }

end Sys2Proof.Machine
end

