-- ==== Sys2Proof/Machine/Step.lean ====
section
/-! DEFINITION. The step of the machine, and the placing of an instruction where it fetches next. -/

namespace Sys2Proof.Machine

/-- One step: one operation of the host (R8, log 6). -/
def step (s : State) : Host.Outcome State Fault Refusal := hostStep s

/-- The state with an instruction, numbered as the opcode table numbers it, stored where step fetches its next instruction
(log 12). -/
def State.withFetchWord (s : State) (nbits w : Nat) : State := s.storeFetchWord nbits w

end Sys2Proof.Machine
end

