-- ==== Sys2Proof/Machine/Schedule.lean ====
section
/-! DEFINITION. The host's schedule: runs of the block in which the host calls one operation after another, and the weak fairness that the
scheduler gives the two due inputs (R333, D1). The scheduler's clock and periods lie outside the block (R6; log 17). -/

namespace Sys2Proof.Machine

/-- The operation is a tick. -/
def HostOp.isTick : HostOp → Bool
  | .tick _ => true
  | .singleStep _ => false
  | .pause _ => false
  | .loadProgram _ => false
  | .loadState _ => false
  | .saveState _ => false

/-- The operation is a tick with `cycle_due`. -/
def HostOp.isCycleTick : HostOp → Bool
  | .tick t => t.cycleDue
  | .singleStep _ => false
  | .pause _ => false
  | .loadProgram _ => false
  | .loadState _ => false
  | .saveState _ => false

/-- The operation is a tick with `timer_due`. -/
def HostOp.isTimerTick : HostOp → Bool
  | .tick t => t.timerDue
  | .singleStep _ => false
  | .pause _ => false
  | .loadProgram _ => false
  | .loadState _ => false
  | .saveState _ => false

/-- The state with the operations that the host still calls (log 6). -/
def State.withPending (s : State) (ops : List HostOp) : State := { s with pending := ops }

/-- An endless run: the host calls operation `ops n` on state `states n`, and the step answers `states (n + 1)` (R8, R95). -/
def HostRun (ops : Nat → HostOp) (states : Nat → State) : Prop :=
  ∀ n, step ((states n).withPending [ops n]) = .next (states (n + 1))

/-- It holds of infinitely many operations of the schedule. -/
def InfinitelyOften (ops : Nat → HostOp) (p : HostOp → Bool) : Prop := ∀ n, ∃ m, n ≤ m ∧ p (ops m) = true

/-- Weak fairness (R333, D1): a schedule with infinitely many ticks has infinitely many with `cycle_due` and infinitely many with
`timer_due`. Nothing else is said of the order or the ratio of the two (log 17). -/
def WeaklyFair (ops : Nat → HostOp) : Prop :=
  InfinitelyOften ops HostOp.isTick → InfinitelyOften ops HostOp.isCycleTick ∧ InfinitelyOften ops HostOp.isTimerTick

end Sys2Proof.Machine
end

