-- ==== Sys2Proof/Safety.lean ====
section
/-! DEFINITION. The terms claims use: the invariant of R56, the end of a run (R347), what a change leaves alone, and the pixels a
sprite covers (R182). -/

namespace Sys2Proof.Machine

/-- The fields of State, for saying what a change leaves alone. `fault` is `FaultCause` with `FaultInfo`. -/
inductive Field where
  | v | i | pc | sp | dt | st | ir | stack | mem | r | mode | pixels | displayChanged | keyboard | exited | paused | fault
  | config | rnd | draws | pending | outputs
  deriving DecidableEq, Repr

/-- The field reads the same in both states. Memory is compared byte by byte, through the read of one byte. -/
def Field.same (f : Field) (s t : State) : Prop :=
  match f with
  | .v => t.v = s.v
  | .i => t.i = s.i
  | .pc => t.pc = s.pc
  | .sp => t.sp = s.sp
  | .dt => t.dt = s.dt
  | .st => t.st = s.st
  | .ir => t.ir = s.ir
  | .stack => t.stack = s.stack
  | .mem => ∀ a, t.readByte a = s.readByte a
  | .r => t.r = s.r
  | .mode => t.extendedMode = s.extendedMode
  | .pixels => t.pixels = s.pixels
  | .displayChanged => t.displayChanged = s.displayChanged
  | .keyboard => t.keyboard = s.keyboard
  | .exited => t.exited = s.exited
  | .paused => t.paused = s.paused
  | .fault => t.faultCause = s.faultCause ∧ t.faultInfo = s.faultInfo
  | .config => t.config = s.config
  | .rnd => t.rnd = s.rnd
  | .draws => t.draws = s.draws
  | .pending => t.pending = s.pending
  | .outputs => t.outputs = s.outputs

/-- From `s` to `t` every field but those listed is unchanged. -/
def unchangedBut (fields : List Field) (s t : State) : Prop := ∀ f, f ∉ fields → f.same s t

/-- The whole effect of raising a fault (R311): cause, information and event, and nothing else. -/
def raisesOnly (cause : FaultCause) (info : FaultInfo) (s t : State) : Prop :=
  t.faultCause = some cause ∧ t.faultInfo = info ∧ t.outputs = .fault cause info :: s.outputs ∧
  unchangedBut [.fault, .outputs] s t

/-- The invariant: `SP ≤ 16`, and the pixel buffer holds entries 0 and 1 of its 8192 places only (R56, in the form the model
gives it), and memory is in its canonical form (log 11). -/
def State.Inv (s : State) : Prop :=
  s.sp.toNat ≤ 16 ∧ Memory.wf s.config s.mem = true ∧ Pixels.wf s.pixels = true

/-- The end of a run (R347): Exited or Faulted. -/
def State.Ended (s : State) : Prop := s.live = false

/-- A run that ends well: Exited, with no fault recorded (R347). -/
def State.EndedWell (s : State) : Prop := s.exited = true ∧ s.faultCause = none

/-- Some set bit of a sprite falls on the pixel (px, py) of a `w × h` picture, each bit's pixel wrapped on its own (R182). -/
def spriteCovers (w h xs ys rows cols : Nat) (bitAt : Nat → Nat → Bool) (px py : Nat) : Prop :=
  ∃ r < rows, ∃ c < cols, bitAt r c = true ∧ (xs + c) % w = px ∧ (ys + r) % h = py

/-- The effect of drawing a sprite (R182, R183): covered pixels flip, the others of the picture and the entries outside it stay,
VF is 1 iff a covered pixel was lit, and nothing else changes but `DisplayChanged`, which is set. -/
def drawsSprite (xs ys rows cols : Nat) (bitAt : Nat → Nat → Bool) (s t : State) : Prop :=
  (∀ px py, px < s.width → py < s.height →
    (spriteCovers s.width s.height xs ys rows cols bitAt px py → t.pixel px py = !s.pixel px py) ∧
    (¬ spriteCovers s.width s.height xs ys rows cols bitAt px py → t.pixel px py = s.pixel px py)) ∧
  (∀ k, s.width * s.height ≤ k → Pixels.lit t.pixels k = Pixels.lit s.pixels k) ∧
  ((∃ px py, spriteCovers s.width s.height xs ys rows cols bitAt px py ∧ s.pixel px py = true) → t.getV 15 = 1) ∧
  ((¬ ∃ px py, spriteCovers s.width s.height xs ys rows cols bitAt px py ∧ s.pixel px py = true) → t.getV 15 = 0) ∧
  (∀ r : Reg, r ≠ 15 → t.getV r = s.getV r) ∧
  t.displayChanged = true ∧
  unchangedBut [.v, .pixels, .displayChanged] s t

/-- The effect of a flag-setting instruction (R150, R157 to R161): the result in `Vx`, the flag in VF; with X = F the one that
`FLAG_LAST` says. Numbers, not bits, so that the wrap is visible. -/
def writesFlagged (x : Reg) (result flag : Nat) (s t : State) : Prop :=
  (∀ r : Reg, r ≠ x → r ≠ 15 → t.getV r = s.getV r) ∧
  (x ≠ 15 → (t.getV x).toNat = result ∧ (t.getV 15).toNat = flag) ∧
  (x = 15 → s.config.flagLast = true → (t.getV 15).toNat = flag) ∧
  (x = 15 → s.config.flagLast = false → (t.getV 15).toNat = result) ∧
  unchangedBut [.v] s t

/-- One general register is written, and nothing else changes. -/
def writesV (x : Reg) (b : Byte) (s t : State) : Prop :=
  t.getV x = b ∧ (∀ r : Reg, r ≠ x → t.getV r = s.getV r) ∧ unchangedBut [.v] s t

/-- The move of `I` by a load or store of V0..Vx, as `QUIRK_LOADSTORE_I` says (R245, R246, D8). -/
def movesI (x : Reg) (s t : State) : Prop :=
  (s.config.loadStoreI = .unchanged → t.i = s.i) ∧
  (s.config.loadStoreI = .plusXPlus1 → t.i.toNat = (s.i.toNat + x.val + 1) % 65536)

/-- The fetch checks of R112 pass. -/
def State.fetchable (s : State) : Prop :=
  (s.pc.toNat % 2 = 0 ∨ s.config.allowOddPc = true) ∧ s.pc.toNat + 1 ≤ 0xFFF

/-- The two bytes at the program counter, the byte at the lower address high (R82). -/
def State.wordAtPc (s : State) : Word := joinBytes (s.readByte s.pc.toNat) (s.readByte (s.pc.toNat + 1))

/-- The state a handler runs on (R111, R113): `IR` holds the word at `PC`, `PC` is advanced, and the draw is at hand. -/
def State.afterFetch (s : State) (rnd : Byte) : State := { s with ir := s.wordAtPc, pc := s.pc + 2, rnd := rnd }

/-- The bit of an 8-column sprite at `I`: row r, column c, bit 7 leftmost (R183, D15). -/
def State.spriteBit8 (s : State) (r c : Nat) : Bool := (s.readByte (s.i.toNat + r)).getLsbD (7 - c)

/-- The bit of a 16-column sprite at `I`: two bytes a row, the left byte first, bit 7 leftmost (R184, D15). -/
def State.spriteBit16 (s : State) (r c : Nat) : Bool :=
  if c < 8 then (s.readByte (s.i.toNat + 2 * r)).getLsbD (7 - c)
  else (s.readByte (s.i.toNat + 2 * r + 1)).getLsbD (15 - c)

end Sys2Proof.Machine
end

