-- ==== Sys2Proof/Certificates/Slice0/Obligations.lean ====
section
/-! DEFINITION. The statements for the provers. Each docstring names the rules or sections it rests on, and says where a clause is
the spec's own decision or the model's choice. -/

open Sys2Proof Sys2Proof.Machine

/-- Decode and encode agree on every instruction (the table of R120, formats of R118). The patterns are the spec's general knowledge (log 1). -/
def Obligations.DecodeInvertsEncode : Prop :=
  ∀ i : Instr, i.WellFormed ∧ decodeWord (encode i) = .ok i

/-- The other direction of the round trip: no two words decode to one instruction (R118, R120; log 1). -/
def Obligations.EncodeInvertsDecode : Prop :=
  ∀ (w : Word) (i : Instr), decodeWord w = .ok i → encode i = w

/-- Words written out from the encodings of R120 (log 1). -/
def Obligations.SampleWordsDecode : Prop :=
  decodeWord 0b0000000011100000 = .ok .cls ∧
  decodeWord 0b0000000011001111 = .ok (.scd 15) ∧
  decodeWord 0b0001101010111100 = .ok (.jp 0xABC) ∧
  decodeWord 0b0110101010011100 = .ok (.ldVxKk 10 0x9C) ∧
  decodeWord 0b1000000100100101 = .ok (.subVxVy 1 2) ∧
  decodeWord 0b1101000100100111 = .ok (.drwVxVyN 1 2 7) ∧
  decodeWord 0b1110010110011110 = .ok (.skpVx 5) ∧
  decodeWord 0b1111001101010101 = .ok (.ldMemVx 3) ∧
  decodeWord 0b1000101010111000 = .error .noRow ∧
  decodeWord 0b0000000100100011 = .error .sysSpace

/-- The list of illegal words in R122 (its counts follow from it). -/
def Obligations.UnassignedWordsAreRefused : Prop :=
  ∀ w : Word,
    ((∃ e, decodeWord w = .error e) ↔
      (w.toNat / 4096 = 0 ∧ ¬ (0xC0 ≤ w.toNat ∧ w.toNat ≤ 0xCF) ∧ w.toNat ≠ 0xE0 ∧ w.toNat ≠ 0xEE ∧
        ¬ (0xFB ≤ w.toNat ∧ w.toNat ≤ 0xFF)) ∨
      ((w.toNat / 4096 = 5 ∨ w.toNat / 4096 = 9) ∧ w.toNat % 16 ≠ 0) ∨
      (w.toNat / 4096 = 8 ∧ w.toNat % 16 ∈ [8, 9, 0xA, 0xB, 0xC, 0xD, 0xF]) ∨
      (w.toNat / 4096 = 0xE ∧ w.toNat % 256 ∉ [0x9E, 0xA1]) ∨
      (w.toNat / 4096 = 0xF ∧
        w.toNat % 256 ∉ [0x07, 0x0A, 0x15, 0x18, 0x1E, 0x29, 0x30, 0x33, 0x55, 0x65, 0x75, 0x85])) ∧
    (decodeWord w = .error .sysSpace ↔ (∃ e, decodeWord w = .error e) ∧ w.toNat / 4096 = 0)

/-- R114: with the masks of the spec no two rows match the same word (log 1). -/
def Obligations.AtMostOneRowSelectsAWord : Prop :=
  table.length = 43 ∧ ∀ w : Word, (table.filter fun r => r.selects w).length ≤ 1

/-- Fetch, decode, handler, push (R111, R113, R114, R331, R337). The free step of an empty list of operations is the model's choice (log 5, 6). -/
def Obligations.StepRunsDecodedInstruction : Prop :=
  ∀ (s : State) (i : Instr), s.pending = [] → s.live = true → s.fetchable →
    decodeBytes [s.readByte s.pc.toNat, s.readByte (s.pc.toNat + 1)] = .ok (i, []) →
    step s =
      match exec i (State.afterFetch { s with draws := s.draws + 1 } (Config.freeByte s.draws)) with
      | .next t => .next (if t.faultCause.isSome then t else t.pushDisplay)
      | .fault f => .fault f
      | .refused r => .refused r

/-- The operations of R8 and R72, each whole and in order (R95). The list is the model's choice (log 6). -/
def Obligations.PendingOperationIsPerformed : Prop :=
  ∀ (s : State) (op : HostOp) (rest : List HostOp), s.pending = op :: rest →
    step s =
      match op with
      | .tick t => tick t { s with pending := rest }
      | .singleStep b => singleStep b { s with pending := rest }
      | .pause b => .next (pause b { s with pending := rest })
      | .loadProgram image => .next (loadProgram image { s with pending := rest })
      | .loadState stream => .next (loadState stream { s with pending := rest })
      | .saveState writable => .next (saveState writable { s with pending := rest })

/-- How an instruction comes to stand where step fetches (log 12). -/
def Obligations.PlacedWordIsFetched : Prop :=
  ∀ (s : State) (w : Nat), w < 65536 → s.Inv → s.fetchable →
    (s.withFetchWord 16 w).wordAtPc = BitVec.ofNat 16 w ∧ (s.withFetchWord 16 w).pc = s.pc ∧
    (s.withFetchWord 16 w).pending = [] ∧ decodeTableWord 16 w = (decodeWord (BitVec.ofNat 16 w)).toOption

/-- The fetch checks of R112 in the order of R322, raised as R311 says; the spec's decisions D12 and D38. -/
def Obligations.FetchFaultsEndTheCycle : Prop :=
  ∀ (rnd : Byte) (s : State),
    (s.pc.toNat % 2 = 1 → s.config.allowOddPc = false →
      ∃ t, cycle rnd s = .next t ∧ raisesOnly .pcAlignFault ⟨s.pc, 0⟩ { s with rnd := rnd } t) ∧
    ((s.pc.toNat % 2 = 0 ∨ s.config.allowOddPc = true) → 0xFFF < s.pc.toNat + 1 →
      ∃ t, cycle rnd s = .next t ∧ raisesOnly .fetchRangeFault ⟨s.pc, 0⟩ { s with rnd := rnd } t)

/-- R312, in both directions. -/
def Obligations.UnassignedWordRaisesDecodeFault : Prop :=
  ∀ (rnd : Byte) (s : State),
    (s.fetchable → (∀ r ∈ table, r.selects s.wordAtPc = false) →
      (s.config.hasSys = false ∨ 0x1000 ≤ s.wordAtPc.toNat) →
      FaultCause.decodeFault.code = 1 ∧
      ∃ t, cycle rnd s = .next t ∧ raisesOnly .decodeFault ⟨s.pc, s.wordAtPc⟩ (s.afterFetch rnd) t) ∧
    (∀ t, s.faultCause = none → cycle rnd s = .next t → t.faultCause = some .decodeFault →
      s.fetchable ∧ ∀ r ∈ table, r.selects s.wordAtPc = false)

/-- The refusal that R123 and R301 ask for by decision D3 (log 14). -/
def Obligations.SysWordsAreRefused : Prop :=
  ∀ (rnd : Byte) (s : State), s.fetchable → (∀ r ∈ table, r.selects s.wordAtPc = false) →
    s.config.hasSys = true → s.wordAtPc.toNat < 0x1000 → cycle rnd s = .refused .sysNotDescribed

/-- R82; no handler writes IR, so it is seen in the state after the cycle. -/
def Obligations.FetchIsBigEndian : Prop :=
  ∀ (rnd : Byte) (s t : State), s.fetchable → cycle rnd s = .next t →
    t.ir.extractLsb 15 8 = s.readByte s.pc.toNat ∧ t.ir.extractLsb 7 0 = s.readByte (s.pc.toNat + 1)

/-- R115; its last sentence is the spec's decision D22. -/
def Obligations.CycleEndsWithDisplayPush : Prop :=
  ∀ (rnd : Byte) (s u : State) (i : Instr), s.fetchable → decodeWord s.wordAtPc = .ok i →
    exec i (s.afterFetch rnd) = .next u →
    (u.faultCause = none → ∃ t, cycle rnd s = .next t ∧ t.displayChanged = false ∧
      (u.displayChanged = true → t.outputs = .updateDisplay u.extendedMode u.pixels :: u.outputs) ∧
      (u.displayChanged = false → t.outputs = u.outputs) ∧
      unchangedBut [.displayChanged, .outputs] u t) ∧
    (u.faultCause ≠ none → cycle rnd s = .next u)

/-- R157 to R161, over numbers; which of the two VF keeps when X = F is the parameter FLAG_LAST, at both its values. -/
def Obligations.FlagSettingArithmetic : Prop :=
  ∀ (x y : Reg) (s : State),
    (decodeWord (BitVec.ofNat 16 (0x8004 + 256 * x.val + 16 * y.val)) = .ok (.addVxVy x y) ∧
      ∃ t, exec (.addVxVy x y) s = .next t ∧
        writesFlagged x (((s.getV x).toNat + (s.getV y).toNat) % 256)
          (if (s.getV x).toNat + (s.getV y).toNat > 0xFF then 1 else 0) s t) ∧
    (decodeWord (BitVec.ofNat 16 (0x8005 + 256 * x.val + 16 * y.val)) = .ok (.subVxVy x y) ∧
      ∃ t, exec (.subVxVy x y) s = .next t ∧
        writesFlagged x (((s.getV x).toNat + 256 - (s.getV y).toNat) % 256)
          (if (s.getV x).toNat > (s.getV y).toNat then 1 else 0) s t) ∧
    (decodeWord (BitVec.ofNat 16 (0x8006 + 256 * x.val + 16 * y.val)) = .ok (.shrVxVy x y) ∧
      ∃ t, exec (.shrVxVy x y) s = .next t ∧
        writesFlagged x ((s.getV x).toNat / 2) ((s.getV x).toNat % 2) s t) ∧
    (decodeWord (BitVec.ofNat 16 (0x8007 + 256 * x.val + 16 * y.val)) = .ok (.subnVxVy x y) ∧
      ∃ t, exec (.subnVxVy x y) s = .next t ∧
        writesFlagged x (((s.getV y).toNat + 256 - (s.getV x).toNat) % 256)
          (if (s.getV y).toNat > (s.getV x).toNat then 1 else 0) s t) ∧
    (decodeWord (BitVec.ofNat 16 (0x800E + 256 * x.val + 16 * y.val)) = .ok (.shlVxVy x y) ∧
      ∃ t, exec (.shlVxVy x y) s = .next t ∧
        writesFlagged x ((s.getV x).toNat * 2 % 256) ((s.getV x).toNat / 128) s t)

/-- R151 to R156 and R162. The spec marks this meaning as general knowledge (D5, log 18). The draw is a free value (log 5). -/
def Obligations.RegisterLoadsAndLogic : Prop :=
  ∀ (x y : Reg) (kk : Byte) (s : State),
    (∃ t, exec (.ldVxKk x kk) s = .next t ∧ writesV x kk s t) ∧
    (∃ t, exec (.addVxKk x kk) s = .next t ∧
      writesV x (BitVec.ofNat 8 ((s.getV x).toNat + kk.toNat)) s t) ∧
    (∃ t, exec (.ldVxVy x y) s = .next t ∧ writesV x (s.getV y) s t) ∧
    (∃ t, exec (.rndVxKk x kk) s = .next t ∧ writesV x (s.rnd &&& kk) s t) ∧
    (s.config.logicVfReset = false →
      (∃ t, exec (.orVxVy x y) s = .next t ∧ writesV x (s.getV x ||| s.getV y) s t) ∧
      (∃ t, exec (.andVxVy x y) s = .next t ∧ writesV x (s.getV x &&& s.getV y) s t) ∧
      (∃ t, exec (.xorVxVy x y) s = .next t ∧ writesV x (s.getV x ^^^ s.getV y) s t)) ∧
    (s.config.logicVfReset = true → ∀ (i : Instr) (b : Byte),
      (i = .orVxVy x y ∧ b = s.getV x ||| s.getV y) ∨ (i = .andVxVy x y ∧ b = s.getV x &&& s.getV y) ∨
        (i = .xorVxVy x y ∧ b = s.getV x ^^^ s.getV y) →
      ∃ t, exec i s = .next t ∧ (x ≠ 15 → t.getV x = b) ∧ t.getV 15 = 0 ∧
        (∀ r : Reg, r ≠ x → r ≠ 15 → t.getV r = s.getV r) ∧ unchangedBut [.v] s t)

/-- R274 to R277. The spec marks this meaning as general knowledge (D5, log 18). -/
def Obligations.SkipsCompareAndSkip : Prop :=
  ∀ (x y : Reg) (kk : Byte) (s : State),
    (∃ t, exec (.seVxKk x kk) s = .next t ∧ unchangedBut [.pc] s t ∧
      (s.getV x = kk → t.pc = s.pc + 2) ∧ (s.getV x ≠ kk → t.pc = s.pc)) ∧
    (∃ t, exec (.sneVxKk x kk) s = .next t ∧ unchangedBut [.pc] s t ∧
      (s.getV x ≠ kk → t.pc = s.pc + 2) ∧ (s.getV x = kk → t.pc = s.pc)) ∧
    (∃ t, exec (.seVxVy x y) s = .next t ∧ unchangedBut [.pc] s t ∧
      (s.getV x = s.getV y → t.pc = s.pc + 2) ∧ (s.getV x ≠ s.getV y → t.pc = s.pc)) ∧
    (∃ t, exec (.sneVxVy x y) s = .next t ∧ unchangedBut [.pc] s t ∧
      (s.getV x ≠ s.getV y → t.pc = s.pc + 2) ∧ (s.getV x = s.getV y → t.pc = s.pc))

/-- R272 (general knowledge, log 18) and R278. -/
def Obligations.JumpsSetThePc : Prop :=
  ∀ (nnn : Addr) (s : State),
    (∃ t, exec (.jp nnn) s = .next t ∧ t.pc.toNat = nnn.toNat ∧ unchangedBut [.pc] s t) ∧
    (∃ t, exec (.jpV0Nnn nnn) s = .next t ∧ t.pc.toNat = nnn.toNat + (s.getV 0).toNat ∧ unchangedBut [.pc] s t)

/-- R273; sixteen nested calls are allowed, since depth 15 still completes. -/
def Obligations.CallPushesReturnAddress : Prop :=
  ∀ (nnn : Addr) (s : State),
    decodeWord (BitVec.ofNat 16 (0x2000 + nnn.toNat)) = .ok (.call nnn) ∧
    (s.sp.toNat < 16 → ∃ t, exec (.call nnn) s = .next t ∧
      t.stack.toList[s.sp.toNat]? = some s.pc ∧
      (∀ k : Nat, k ≠ s.sp.toNat → t.stack.toList[k]? = s.stack.toList[k]?) ∧
      t.sp.toNat = s.sp.toNat + 1 ∧ t.pc.toNat = nnn.toNat ∧ unchangedBut [.pc, .sp, .stack] s t) ∧
    (s.sp.toNat = 16 → ∃ t, exec (.call nnn) s = .next t ∧ raisesOnly .stackOverflow ⟨s.pc - 2, s.ir⟩ s t)

/-- R271; the pop order is derived there from "Stack[SP] is the next free slot". -/
def Obligations.RetPopsReturnAddress : Prop :=
  ∀ s : State,
    (0 < s.sp.toNat → s.sp.toNat ≤ 16 → ∃ t, exec .ret s = .next t ∧
      t.sp.toNat = s.sp.toNat - 1 ∧ s.stack.toList[t.sp.toNat]? = some t.pc ∧ unchangedBut [.pc, .sp] s t) ∧
    (s.sp.toNat = 0 → ∃ t, exec .ret s = .next t ∧ raisesOnly .stackUnderflow ⟨s.pc - 2, s.ir⟩ s t)

/-- The sentence on two calls and two returns in R270, by CALL and RET of R273 and R271; the underflow of the third RET is R271 and R314. -/
def Obligations.CallsReturnInReverseOrder : Prop :=
  ∀ (a b : Addr) (s : State) (p q r : Word), s.sp.toNat ≤ 14 →
    ∃ s1 s2 s3 s4, exec (.call a) s = .next s1 ∧ exec (.call b) (s1.setPc p) = .next s2 ∧
      exec .ret (s2.setPc q) = .next s3 ∧ exec .ret (s3.setPc r) = .next s4 ∧
      s3.pc = p ∧ s4.pc = s.pc ∧ s4.sp = s.sp ∧
      (s.sp = 0 → ∃ s5, exec .ret s4 = .next s5 ∧ s5.faultCause = some .stackUnderflow)

/-- R300. -/
def Obligations.ExitStopsTheEngine : Prop :=
  ∀ s : State, ∃ t, exec .exit s = .next t ∧ t.exited = true ∧ unchangedBut [.exited] s t ∧
    (s.faultCause = none → t.engine = .exited)

/-- R181, with its decisions D16 (what is cleared) and D17 (the flag). -/
def Obligations.ClsClearsThePicture : Prop :=
  ∀ s : State, ∃ t, exec .cls s = .next t ∧
    (∀ k, k < s.width * s.height → Pixels.lit t.pixels k = false) ∧
    (∀ k, s.width * s.height ≤ k → Pixels.lit t.pixels k = Pixels.lit s.pixels k) ∧
    t.displayChanged = true ∧ unchangedBut [.pixels, .displayChanged] s t

/-- R182 and R183; bit order by D15, operand order by D34 (the spec's decisions). -/
def Obligations.DrwDrawsRows : Prop :=
  ∀ (x y : Reg) (n : Nibble) (s : State), s.Inv → 0 < n.val → s.i.toNat + (n.val - 1) ≤ 0xFFF →
    ∃ t, exec (.drwVxVyN x y n) s = .next t ∧
      drawsSprite (s.getV x).toNat (s.getV y).toNat n.val 8 s.spriteBit8 s t

/-- R184; byte order by D15, the normal-mode form by D13 (the spec's decisions). -/
def Obligations.DrwDrawsWideRows : Prop :=
  ∀ (x y : Reg) (s : State), s.Inv → (s.extendedMode = true ∨ s.config.drw0Normal = .sprite16) →
    s.i.toNat + 31 ≤ 0xFFF →
    ∃ t, exec (.drwVxVyN x y 0) s = .next t ∧
      drawsSprite (s.getV x).toNat (s.getV y).toNat 16 16 s.spriteBit16 s t

/-- The checks of R183 and R184; the spec's decisions D11 and D13. -/
def Obligations.DrwChecksBeforeDrawing : Prop :=
  ∀ (x y : Reg) (n : Nibble) (s : State),
    (0 < n.val → 0xFFF < s.i.toNat + (n.val - 1) →
      ∃ t, exec (.drwVxVyN x y n) s = .next t ∧ raisesOnly .memRangeFault ⟨s.pc - 2, s.ir⟩ s t) ∧
    ((s.extendedMode = true ∨ s.config.drw0Normal = .sprite16) → 0xFFF < s.i.toNat + 31 →
      ∃ t, exec (.drwVxVyN x y 0) s = .next t ∧ raisesOnly .memRangeFault ⟨s.pc - 2, s.ir⟩ s t) ∧
    (s.extendedMode = false → s.config.drw0Normal = .fault →
      ∃ t, exec (.drwVxVyN x y 0) s = .next t ∧ raisesOnly .modeFault ⟨s.pc - 2, s.ir⟩ s t) ∧
    (s.extendedMode = false → s.config.drw0Normal = .nothing →
      ∃ t, exec (.drwVxVyN x y 0) s = .next t ∧ t.getV 15 = 0 ∧ (∀ r : Reg, r ≠ 15 → t.getV r = s.getV r) ∧
        t.displayChanged = true ∧ unchangedBut [.v, .displayChanged] s t)

/-- The source's example in R183, for every picture. -/
def Obligations.DrwTwiceRestoresThePicture : Prop :=
  ∀ (x y : Reg) (n : Nibble) (s : State), s.Inv → x ≠ 15 → y ≠ 15 → 0 < n.val → s.i.toNat + (n.val - 1) ≤ 0xFFF →
    ∃ t u, exec (.drwVxVyN x y n) s = .next t ∧ exec (.drwVxVyN x y n) t = .next u ∧ u.pixels = s.pixels ∧
      (u.getV 15 = 1 ↔ ∃ px py, spriteCovers s.width s.height (s.getV x).toNat (s.getV y).toNat n.val 8 s.spriteBit8 px py ∧
        s.pixel px py = false)

/-- R185; the normal-mode choices are D14, the zero fill D17 (the spec's decisions). -/
def Obligations.ScdScrollsDown : Prop :=
  ∀ (n : Nibble) (s : State),
    ((s.extendedMode = true ∨ s.config.scdNormal = .scroll) → ∃ t, exec (.scd n) s = .next t ∧
      (∀ px py, px < s.width → py < s.height → t.pixel px py = (decide (n.val ≤ py) && s.pixel px (py - n.val))) ∧
      (∀ k, s.width * s.height ≤ k → Pixels.lit t.pixels k = Pixels.lit s.pixels k) ∧
      t.displayChanged = true ∧ unchangedBut [.pixels, .displayChanged] s t) ∧
    (s.extendedMode = false → s.config.scdNormal = .noop → exec (.scd n) s = .next s) ∧
    (s.extendedMode = false → s.config.scdNormal = .fault →
      ∃ t, exec (.scd n) s = .next t ∧ raisesOnly .modeFault ⟨s.pc - 2, s.ir⟩ s t)

/-- R186 and R187; the zero fill is general knowledge (D17). -/
def Obligations.SidewaysScrollsMoveFourColumns : Prop :=
  ∀ s : State,
    (∃ t, exec .scr s = .next t ∧
      (∀ px py, px < s.width → py < s.height → t.pixel px py = (decide (4 ≤ px) && s.pixel (px - 4) py)) ∧
      (∀ k, s.width * s.height ≤ k → Pixels.lit t.pixels k = Pixels.lit s.pixels k) ∧
      t.displayChanged = true ∧ unchangedBut [.pixels, .displayChanged] s t) ∧
    (∃ t, exec .scl s = .next t ∧
      (∀ px py, px < s.width → py < s.height → t.pixel px py = (decide (px + 4 < s.width) && s.pixel (px + 4) py)) ∧
      (∀ k, s.width * s.height ≤ k → Pixels.lit t.pixels k = Pixels.lit s.pixels k) ∧
      t.displayChanged = true ∧ unchangedBut [.pixels, .displayChanged] s t)

/-- R189 and R190. -/
def Obligations.ModeSwitches : Prop :=
  decodeWord 0x00FF = .ok .high ∧ decodeWord 0x00FE = .ok .low ∧ ∀ s : State,
    (s.extendedMode = false → ∃ t, exec .high s = .next t ∧ t.extendedMode = true ∧ t.displayChanged = true ∧
      t.width = 128 ∧ t.height = 64 ∧
      (∀ k, Pixels.lit t.pixels k = (!s.config.modeSwitchClears && Pixels.lit s.pixels k)) ∧
      unchangedBut [.mode, .pixels, .displayChanged] s t) ∧
    (s.extendedMode = true → ∃ t, exec .low s = .next t ∧ t.extendedMode = false ∧ t.displayChanged = true ∧
      t.width = 64 ∧ t.height = 32 ∧
      (∀ k, Pixels.lit t.pixels k = (!s.config.modeSwitchClears && Pixels.lit s.pixels k)) ∧
      unchangedBut [.mode, .pixels, .displayChanged] s t) ∧
    (s.extendedMode = true → exec .high s = .next s) ∧ (s.extendedMode = false → exec .low s = .next s)

/-- R220 and R221. The spec marks this meaning as general knowledge (D5, log 18). The fault is decision D18. -/
def Obligations.KeySkips : Prop :=
  ∀ (x : Reg) (s : State),
    (∀ h : (s.getV x).toNat < 16,
      (∃ t, exec (.skpVx x) s = .next t ∧ unchangedBut [.pc] s t ∧
        t.pc = if s.keyboard[(s.getV x).toNat] then s.pc + 2 else s.pc) ∧
      (∃ t, exec (.sknpVx x) s = .next t ∧ unchangedBut [.pc] s t ∧
        t.pc = if s.keyboard[(s.getV x).toNat] then s.pc else s.pc + 2)) ∧
    (16 ≤ (s.getV x).toNat → ∀ i, i = .skpVx x ∨ i = .sknpVx x →
      ∃ t, exec i s = .next t ∧ raisesOnly .keyRangeFault ⟨s.pc - 2, s.ir⟩ s t)

/-- R222; that the timers go on while it waits is TickOrder. -/
def Obligations.KeyWaitTakesTheLowestKey : Prop :=
  ∀ (x : Reg) (s : State),
    decodeWord (BitVec.ofNat 16 (0xF00A + 256 * x.val)) = .ok (.ldVxK x) ∧
    ((∀ k (_ : k < 16), s.keyboard[k] = false) →
      ∃ t, exec (.ldVxK x) s = .next t ∧ t.pc = s.pc - 2 ∧ unchangedBut [.pc] s t) ∧
    (∀ k (_ : k < 16), s.keyboard[k] = true → (∀ j (_ : j < k), s.keyboard[j] = false) →
      ∃ t, exec (.ldVxK x) s = .next t ∧ writesV x (BitVec.ofNat 8 k) s t)

/-- R223 to R225. The spec marks this meaning as general knowledge (D5, log 18). -/
def Obligations.TimerRegisterMoves : Prop :=
  ∀ (x : Reg) (s : State),
    (∃ t, exec (.ldVxDt x) s = .next t ∧ writesV x s.dt s t) ∧
    (∃ t, exec (.ldDtVx x) s = .next t ∧ t.dt = s.getV x ∧ unchangedBut [.dt] s t) ∧
    (∃ t, exec (.ldStVx x) s = .next t ∧ t.st = s.getV x ∧ unchangedBut [.st] s t)

/-- R240 (general knowledge) and R241; the flag is the open parameter ADDI_VF of D9 (log 3), the width D10. -/
def Obligations.IndexLoadAndAdd : Prop :=
  ∀ (nnn : Addr) (x : Reg) (s : State),
    (∃ t, exec (.ldINnn nnn) s = .next t ∧ t.i.toNat = nnn.toNat ∧ unchangedBut [.i] s t) ∧
    (∃ t, exec (.addIVx x) s = .next t ∧ t.i.toNat = (s.i.toNat + (s.getV x).toNat) % 65536 ∧
      (s.config.addiVf = .sumAboveByteMax →
        (t.getV 15).toNat = if s.i.toNat + (s.getV x).toNat > 0xFF then 1 else 0) ∧
      (s.config.addiVf = .other → (t.getV 15).toNat = if Config.addiVfOther s.i (s.getV x) then 1 else 0) ∧
      (∀ r : Reg, r ≠ 15 → t.getV r = s.getV r) ∧ unchangedBut [.i, .v] s t)

/-- R242 and R243. -/
def Obligations.GlyphAddresses : Prop :=
  ∀ (x : Reg) (s : State),
    decodeWord (BitVec.ofNat 16 (0xF029 + 256 * x.val)) = .ok (.ldFVx x) ∧
    decodeWord (BitVec.ofNat 16 (0xF030 + 256 * x.val)) = .ok (.ldHfVx x) ∧
    ((s.getV x).toNat < 16 →
      (∃ t, exec (.ldFVx x) s = .next t ∧ t.i.toNat = s.config.fontBase.toNat + 5 * (s.getV x).toNat ∧
        unchangedBut [.i] s t) ∧
      (∃ t, exec (.ldHfVx x) s = .next t ∧ t.i.toNat = s.config.fontBase.toNat + 0x50 + 10 * (s.getV x).toNat ∧
        unchangedBut [.i] s t)) ∧
    (16 ≤ (s.getV x).toNat → ∀ i, i = .ldFVx x ∨ i = .ldHfVx x →
      ∃ t, exec i s = .next t ∧ raisesOnly .glyphRangeFault ⟨s.pc - 2, s.ir⟩ s t)

/-- R244. The spec marks this meaning as general knowledge (D5, log 18). The range fault is decision D11. -/
def Obligations.BcdStore : Prop :=
  ∀ (x : Reg) (s : State), s.Inv →
    (s.i.toNat + 2 ≤ 0xFFF → ∃ t, exec (.ldBVx x) s = .next t ∧
      (t.readByte s.i.toNat).toNat = (s.getV x).toNat / 100 ∧
      (t.readByte (s.i.toNat + 1)).toNat = (s.getV x).toNat / 10 % 10 ∧
      (t.readByte (s.i.toNat + 2)).toNat = (s.getV x).toNat % 10 ∧
      (∀ a, a < s.i.toNat ∨ s.i.toNat + 2 < a → t.readByte a = s.readByte a) ∧ unchangedBut [.mem] s t) ∧
    (0xFFF < s.i.toNat + 2 → ∃ t, exec (.ldBVx x) s = .next t ∧ raisesOnly .memRangeFault ⟨s.pc - 2, s.ir⟩ s t)

/-- R245. The spec marks this meaning as general knowledge (D5, log 18). I by D8, the range fault by D11. -/
def Obligations.RegisterStore : Prop :=
  ∀ (x : Reg) (s : State), s.Inv →
    (s.i.toNat + x.val ≤ 0xFFF → ∃ t, exec (.ldMemVx x) s = .next t ∧
      (∀ k : Reg, k ≤ x → t.readByte (s.i.toNat + k.val) = s.getV k) ∧
      (∀ a, a < s.i.toNat ∨ s.i.toNat + x.val < a → t.readByte a = s.readByte a) ∧
      movesI x s t ∧ unchangedBut [.mem, .i] s t) ∧
    (0xFFF < s.i.toNat + x.val →
      ∃ t, exec (.ldMemVx x) s = .next t ∧ raisesOnly .memRangeFault ⟨s.pc - 2, s.ir⟩ s t)

/-- R246. The spec marks this meaning as general knowledge (D5, log 18). I by D8, the range fault by D11. -/
def Obligations.RegisterLoad : Prop :=
  ∀ (x : Reg) (s : State),
    (s.i.toNat + x.val ≤ 0xFFF → ∃ t, exec (.ldVxMem x) s = .next t ∧
      (∀ k : Reg, k ≤ x → t.getV k = s.readByte (s.i.toNat + k.val)) ∧
      (∀ k : Reg, x < k → t.getV k = s.getV k) ∧ movesI x s t ∧ unchangedBut [.v, .i] s t) ∧
    (0xFFF < s.i.toNat + x.val →
      ∃ t, exec (.ldVxMem x) s = .next t ∧ raisesOnly .memRangeFault ⟨s.pc - 2, s.ir⟩ s t)

/-- R247 and R248. -/
def Obligations.RplCopies : Prop :=
  ∀ (x : Reg) (s : State),
    decodeWord (BitVec.ofNat 16 (0xF075 + 256 * x.val)) = .ok (.ldRVx x) ∧
    decodeWord (BitVec.ofNat 16 (0xF085 + 256 * x.val)) = .ok (.ldVxR x) ∧
    (x.val < 8 →
      (∃ t, exec (.ldRVx x) s = .next t ∧
        (∀ k (_ : k < 8), t.r[k] = if k ≤ x.val then s.v[k] else s.r[k]) ∧ unchangedBut [.r] s t) ∧
      (∃ t, exec (.ldVxR x) s = .next t ∧
        (∀ k (_ : k < 8), t.v[k] = if k ≤ x.val then s.r[k] else s.v[k]) ∧
        (∀ k (_ : k < 16), 8 ≤ k → t.v[k] = s.v[k]) ∧ unchangedBut [.v] s t)) ∧
    (8 ≤ x.val → ∀ i, i = .ldRVx x ∨ i = .ldVxR x →
      ∃ t, exec i s = .next t ∧ raisesOnly .rplRangeFault ⟨s.pc - 2, s.ir⟩ s t)

/-- R94 and R393, which the spec derives. -/
def Obligations.StoreIsSeenByNextFetch : Prop :=
  ∀ (x k : Reg) (s : State), s.Inv → s.i.toNat + x.val ≤ 0xFFF → ∀ h : k.val < x.val,
    ∃ t, exec (.ldMemVx x) s = .next t ∧
      (t.setPc (BitVec.ofNat 16 (s.i.toNat + k.val))).fetchWord =
        joinBytes (s.getV k) (s.getV ⟨k.val + 1, by omega⟩)

/-- R311 and R323; the form of the information is decision D38. -/
def Obligations.FaultsArePrecise : Prop :=
  ∀ (i : Instr) (s t : State) (c : FaultCause), s.faultCause = none → exec i s = .next t → t.faultCause = some c →
    raisesOnly c ⟨s.pc - 2, s.ir⟩ s t

/-- The table of R310; causes 6 and 9 are decisions D11 and D18, cause 10 D13 and D14. -/
def Obligations.FaultCausesHaveTheirInstructions : Prop :=
  ∀ (i : Instr) (s t : State) (c : FaultCause), s.faultCause = none → exec i s = .next t → t.faultCause = some c →
    match c with
    | .decodeFault => False
    | .stackOverflow => s.sp = 16 ∧ ∃ a, i = .call a
    | .stackUnderflow => s.sp = 0 ∧ i = .ret
    | .glyphRangeFault => ∃ x, 16 ≤ (s.getV x).toNat ∧ (i = .ldFVx x ∨ i = .ldHfVx x)
    | .rplRangeFault => ∃ x : Reg, 8 ≤ x.val ∧ (i = .ldRVx x ∨ i = .ldVxR x)
    | .memRangeFault =>
      (∃ x y n, i = .drwVxVyN x y n ∧ 0 < n.val ∧ 0xFFF < s.i.toNat + (n.val - 1)) ∨
      (∃ x y, i = .drwVxVyN x y 0 ∧ (s.extendedMode = true ∨ s.config.drw0Normal = .sprite16) ∧
        0xFFF < s.i.toNat + 31) ∨
      (∃ x, i = .ldBVx x ∧ 0xFFF < s.i.toNat + 2) ∨
      (∃ x, (i = .ldMemVx x ∨ i = .ldVxMem x) ∧ 0xFFF < s.i.toNat + x.val)
    | .fetchRangeFault => False
    | .pcAlignFault => False
    | .keyRangeFault => ∃ x, 16 ≤ (s.getV x).toNat ∧ (i = .skpVx x ∨ i = .sknpVx x)
    | .modeFault => s.extendedMode = false ∧
      ((s.config.drw0Normal = .fault ∧ ∃ x y, i = .drwVxVyN x y 0) ∨ (s.config.scdNormal = .fault ∧ ∃ n, i = .scd n))

/-- The promises of R33, R35, R37 to R40, R42, R46, R47, R52, R58 and R81, which the spec makes field by field. The clauses on config, rnd,
draws and pending are about the model's own fields (log 2, 5, 6). -/
def Obligations.OnlyTheirInstructionsWrite : Prop :=
  ∀ (i : Instr) (s t : State), exec i s = .next t →
    (t.sp ≠ s.sp ∨ t.stack ≠ s.stack → i = .ret ∨ ∃ a, i = .call a) ∧
    (t.r ≠ s.r → ∃ x, i = .ldRVx x) ∧
    (t.extendedMode ≠ s.extendedMode → i = .high ∨ i = .low) ∧
    (t.exited ≠ s.exited → i = .exit) ∧
    (t.dt ≠ s.dt → ∃ x, i = .ldDtVx x) ∧
    (t.st ≠ s.st → ∃ x, i = .ldStVx x) ∧
    ((∃ a, t.readByte a ≠ s.readByte a) → ∃ x, i = .ldBVx x ∨ i = .ldMemVx x) ∧
    (t.i ≠ s.i → (∃ a, i = .ldINnn a) ∨
      ∃ x, i = .addIVx x ∨ i = .ldFVx x ∨ i = .ldHfVx x ∨ i = .ldMemVx x ∨ i = .ldVxMem x) ∧
    (t.pixels ≠ s.pixels → i = .cls ∨ i = .scr ∨ i = .scl ∨ i = .high ∨ i = .low ∨ (∃ n, i = .scd n) ∨
      ∃ x y n, i = .drwVxVyN x y n) ∧
    t.ir = s.ir ∧ t.keyboard = s.keyboard ∧ t.paused = s.paused ∧ t.config = s.config ∧ t.rnd = s.rnd ∧
    t.draws = s.draws ∧ t.pending = s.pending

/-- The sentence "No instruction reads it" of R38, which the spec derives. -/
def Obligations.NoInstructionReadsTheSoundTimer : Prop :=
  ∀ (i : Instr) (s : State) (b : Byte),
    ((∀ x, i ≠ .ldStVx x) → exec i (s.setSt b) =
      match exec i s with
      | .next t => .next (t.setSt b)
      | .fault f => .fault f
      | .refused r => .refused r) ∧
    ((∃ x, i = .ldStVx x) → exec i (s.setSt b) = exec i s)

/-- The list of R113, with its derived last sentence. -/
def Obligations.PcAfterTheHandler : Prop :=
  ∀ (rnd : Byte) (s t : State) (i : Instr), s.fetchable → decodeWord s.wordAtPc = .ok i → cycle rnd s = .next t →
    s.pc.toNat ≤ 0xFFE ∧
    (t.pc.toNat = s.pc.toNat + 2 ∨
     (t.pc.toNat = s.pc.toNat + 4 ∧ ((∃ x k, i = .seVxKk x k ∨ i = .sneVxKk x k) ∨
        (∃ x y, i = .seVxVy x y ∨ i = .sneVxVy x y) ∨ ∃ x, i = .skpVx x ∨ i = .sknpVx x)) ∨
     (t.pc = s.pc ∧ (∃ x, i = .ldVxK x) ∧ ∀ k (_ : k < 16), s.keyboard[k] = false) ∨
     (∃ a, (i = .jp a ∨ i = .call a) ∧ t.pc.toNat = a.toNat) ∨
     (∃ a, i = .jpV0Nnn a ∧ t.pc.toNat = a.toNat + (s.getV 0).toNat) ∨
     (i = .ret ∧ 0 < s.sp.toNat ∧ s.stack.toList[s.sp.toNat - 1]? = some t.pc))

/-- R35 says that the values 17..255 cannot arise; what the model does there is log 9. -/
def Obligations.OnlyImpossibleDepthsStop : Prop :=
  ∀ (i : Instr) (s : State),
    ((∃ f, exec i s = .fault f) ↔ 16 < s.sp.toNat ∧ (i = .ret ∨ ∃ a, i = .call a)) ∧ ∀ r, exec i s ≠ .refused r

/-- R341 (with the count down of R340). Frequency and duration are open constants (log 13). -/
def Obligations.BeepWhenSoundTimerReachesZero : Prop :=
  ∀ s : State,
    s.timerStep.dt.toNat = s.dt.toNat - 1 ∧ s.timerStep.st.toNat = s.st.toNat - 1 ∧
    (s.st.toNat = 1 → s.timerStep.outputs = .beep Config.beepFreqHz Config.beepDurationMs :: s.outputs) ∧
    (s.st.toNat ≠ 1 → s.timerStep.outputs = s.outputs) ∧
    unchangedBut [.dt, .st, .outputs] s s.timerStep ∧
    ∀ x, ∃ t, exec (.ldStVx x) s = .next t ∧ t.outputs = s.outputs

/-- R330; the draw after EXIT is an input of the tick (log 8). -/
def Obligations.TickOrder : Prop :=
  ∀ (i : TickInput) (s : State),
    (s.engine = .exited ∨ s.engine = .faulted → tick i s = .next s) ∧
    (s.engine = .paused ∨ (s.engine = .running ∧ i.cycleDue = false) →
      tick i s = .next (if i.timerDue then State.timerStep { s with keyboard := i.keys } else { s with keyboard := i.keys })) ∧
    (s.engine = .running → i.cycleDue = true → ∀ u, cycle i.rnd { s with keyboard := i.keys } = .next u →
      (u.engine = .faulted → tick i s = .next u) ∧
      (u.engine = .exited → i.timerDue = true →
        tick { i with timerAfterExit := true } s = .next u.timerStep ∧
        tick { i with timerAfterExit := false } s = .next u) ∧
      (u.engine = .exited → i.timerDue = false → tick i s = .next u) ∧
      (u.engine = .running ∨ u.engine = .paused → tick i s = .next (if i.timerDue then u.timerStep else u)))

/-- R332. -/
def Obligations.KeyboardIsSampledByTicksOnly : Prop :=
  ∀ (op : HostOp) (s t : State), perform op s = .next t →
    match op with
    | .tick i => (s.live = true → t.keyboard = i.keys) ∧ (s.live = false → t.keyboard = s.keyboard)
    | .singleStep _ => t.keyboard = s.keyboard
    | .pause _ => t.keyboard = s.keyboard
    | .saveState _ => t.keyboard = s.keyboard
    | .loadProgram image =>
      ((∃ bytes, image = some bytes ∧ bytes.length ≤ 3584) → ∀ k (_ : k < 16), t.keyboard[k] = false) ∧
      (¬ (∃ bytes, image = some bytes ∧ bytes.length ≤ 3584) → t.keyboard = s.keyboard)
    | .loadState stream =>
      ((∃ bytes, stream = some bytes ∧ validStream bytes.toArray = true) → ∀ k (_ : k < 16), t.keyboard[k] = false) ∧
      (¬ (∃ bytes, stream = some bytes ∧ validStream bytes.toArray = true) → t.keyboard = s.keyboard)

/-- R338 for Exited; R311, R326 and R335 for Faulted. That a step with nothing pending is a single step is the model's choice (log 6). -/
def Obligations.TerminalStatesStay : Prop :=
  ∀ s : State, s.exited = true ∨ s.faultCause ≠ none →
    (∀ i, tick i s = .next s) ∧ (∀ b, singleStep b s = .next s) ∧ (∀ b, pause b s = s) ∧
    (s.pending = [] → step s = .next s) ∧
    (∀ image : List Byte, image.length ≤ 3584 → (loadProgram (some image) s).live = true) ∧
    ∀ bytes : List Byte, validStream bytes.toArray = true →
      (loadState (some bytes) s).live = (bytes.getD 12352 0 != 1)

/-- R335, R336 and R337; that step neither samples keys nor runs a timer step is decision D30. -/
def Obligations.PauseAndSingleStep : Prop :=
  ∀ (s : State), s.live = true →
    (∀ b, (pause b s).paused = b ∧ unchangedBut [.paused] s (pause b s) ∧
      (pause b s).engine = if b then .paused else .running) ∧
    ∀ rnd, singleStep rnd s = cycle rnd s

/-- R380 and R381; the limit is decision D28, R_PERSIST D26. The invariant is that of R56 in the model's canonical forms (log 10, 11); that
config and the events stay is the model's choice (log 20). -/
def Obligations.LoadProgramLoadsTheImage : Prop :=
  ∀ (image : List Byte) (s : State),
    (image.length ≤ 3584 →
      (∀ k (_ : k < image.length), (loadProgram (some image) s).readByte (0x200 + k) = image[k]) ∧
      (∀ a, a < 0x200 ∨ 0x200 + image.length ≤ a →
        (loadProgram (some image) s).readByte a = Memory.unlisted s.config a) ∧
      (loadProgram (some image) s).pc = 0x200 ∧
      (s.config.rPersist = true → (loadProgram (some image) s).r = s.r) ∧
      (s.config.rPersist = false → (loadProgram (some image) s).r = State.reset.r) ∧
      unchangedBut [.mem, .r, .paused, .config, .rnd, .draws, .pending, .outputs] State.reset
        (loadProgram (some image) s) ∧
      (loadProgram (some image) s).paused = s.paused ∧ (loadProgram (some image) s).config = s.config ∧
      (loadProgram (some image) s).outputs = s.outputs ∧ (loadProgram (some image) s).Inv) ∧
    (3584 < image.length → loadProgram (some image) s = s.emit .ioError) ∧ loadProgram none s = s.emit .ioError

/-- R383 and the table of R384; the byte order is decision D27. -/
def Obligations.SaveStreamLayout : Prop :=
  ∀ s : State, s.saveBytes.length = 12353 ∧
    (∀ k (_ : k < 16), s.saveBytes[k]? = some s.v[k]) ∧
    s.saveBytes[16]? = some (s.i.extractLsb 7 0) ∧ s.saveBytes[17]? = some (s.i.extractLsb 15 8) ∧
    s.saveBytes[18]? = some (s.pc.extractLsb 7 0) ∧ s.saveBytes[19]? = some (s.pc.extractLsb 15 8) ∧
    s.saveBytes[20]? = some s.sp ∧ s.saveBytes[21]? = some s.dt ∧ s.saveBytes[22]? = some s.st ∧
    (∀ k (_ : k < 16), s.saveBytes[23 + 2 * k]? = some (s.stack[k].extractLsb 7 0) ∧
      s.saveBytes[24 + 2 * k]? = some (s.stack[k].extractLsb 15 8)) ∧
    (∀ a, a < 4096 → s.saveBytes[55 + a]? = some (s.readByte a)) ∧
    (∀ k (_ : k < 8), s.saveBytes[4151 + k]? = some s.r[k]) ∧
    s.saveBytes[4159]? = some (if s.extendedMode then 1 else 0) ∧
    (∀ k, k < 8192 → s.saveBytes[4160 + k]? = some (if Pixels.lit s.pixels k then 1 else 0)) ∧
    s.saveBytes[12352]? = some (if s.exited then 1 else 0) ∧
    saveState true s = s.emit (.saved s.saveBytes) ∧ saveState false s = s.emit .ioError

/-- R385 and R386; the validation is decision D27. That the events stay is the model's choice (log 20). -/
def Obligations.LoadStateAcceptsOnlyValidStreams : Prop :=
  ∀ (bytes : List Byte) (s : State),
    ((bytes.length = 12353 ∧ bytes.getD 20 0 ≤ 16 ∧ bytes.getD 4159 0 ≤ 1 ∧ bytes.getD 12352 0 ≤ 1 ∧
        ∀ k, k < 8192 → bytes.getD (4160 + k) 0 ≤ 1) →
      ∃ t, loadState (some bytes) s = t ∧ t.sp = bytes.getD 20 0 ∧
        t.pc = joinBytes (bytes.getD 19 0) (bytes.getD 18 0) ∧
        (t.extendedMode = true ↔ bytes.getD 4159 0 = 1) ∧ (t.exited = true ↔ bytes.getD 12352 0 = 1) ∧
        t.displayChanged = true ∧ t.faultCause = none ∧ t.ir = 0 ∧ t.keyboard = State.reset.keyboard ∧
        t.paused = s.paused ∧ t.outputs = s.outputs) ∧
    (¬ (bytes.length = 12353 ∧ bytes.getD 20 0 ≤ 16 ∧ bytes.getD 4159 0 ≤ 1 ∧ bytes.getD 12352 0 ≤ 1 ∧
        ∀ k, k < 8192 → bytes.getD (4160 + k) 0 ≤ 1) → loadState (some bytes) s = s.emit .ioError) ∧
    loadState none s = s.emit .ioError

/-- The round trip of R387, which the spec derives. That memory and pixels are equal as lists, and the invariant, rest on the model's
canonical forms (log 10, 11); that the events stay is log 20. -/
def Obligations.SaveLoadRoundTrip : Prop :=
  ∀ s u : State, s.Inv → u.config = s.config →
    ∃ t, loadState (some s.saveBytes) u = t ∧ t.v = s.v ∧ t.i = s.i ∧ t.pc = s.pc ∧ t.sp = s.sp ∧ t.dt = s.dt ∧ t.st = s.st ∧
      t.stack = s.stack ∧ t.mem = s.mem ∧ t.r = s.r ∧ t.extendedMode = s.extendedMode ∧ t.pixels = s.pixels ∧
      t.exited = s.exited ∧ t.displayChanged = true ∧ t.ir = 0 ∧ t.keyboard = State.reset.keyboard ∧
      t.faultCause = none ∧ t.faultInfo = ⟨0, 0⟩ ∧ t.outputs = u.outputs ∧ t.Inv

/-- R60, R370 and R371; PC by decision D25, the fonts by D20 (log 2, 4). -/
def Obligations.ResetValues : Prop :=
  (∀ x, State.reset.getV x = 0) ∧ State.reset.i = 0 ∧ State.reset.pc = 0x200 ∧ State.reset.sp = 0 ∧ State.reset.dt = 0 ∧
  State.reset.st = 0 ∧ State.reset.ir = 0 ∧ (∀ k (_ : k < 16), State.reset.stack[k] = 0) ∧
  (∀ k (_ : k < 8), State.reset.r[k] = 0) ∧ State.reset.extendedMode = false ∧
  (∀ k, Pixels.lit State.reset.pixels k = false) ∧ State.reset.displayChanged = true ∧
  (∀ k (_ : k < 16), State.reset.keyboard[k] = false) ∧ State.reset.exited = false ∧ State.reset.paused = false ∧
  State.reset.faultCause = none ∧ State.reset.faultInfo = ⟨0, 0⟩ ∧ State.reset.engine = .running ∧
  (∀ k (_ : k < 80), State.reset.readByte k = State.reset.config.smallFont[k]) ∧
  (∀ k, k < 160 → State.reset.readByte (80 + k) = Config.bigFontByte k) ∧
  (∀ a, 240 ≤ a → State.reset.readByte a = 0)

/-- R56, with the model's canonical forms (log 10, 11); over every operation of R8, loads included. -/
def Obligations.StepKeepsInvariant : Prop :=
  ∀ s t : State, s.Inv → step s = .next t → t.Inv

/-- R56 at power-up (log 10, 11). -/
def Obligations.ResetMeetsInvariant : Prop :=
  State.reset.Inv

/-- The engine is safely callable in every state (R338), faults being next states (log 16); the refusal is log 14. -/
def Obligations.StepNeverStops : Prop :=
  ∀ s : State, s.Inv →
    (∃ t, step s = .next t) ∨
    (s.config.hasSys = true ∧ s.live = true ∧ s.fetchable ∧ s.wordAtPc.toNat < 0x1000 ∧
      (∀ r ∈ table, r.selects s.wordAtPc = false) ∧ step s = .refused .sysNotDescribed)

/-- The parameters of R10 are arguments of the model (log 2). -/
def Obligations.ConfigurationNeverChanges : Prop :=
  ∀ s t : State, step s = .next t → t.config = s.config

/-- Weak fairness of R333 (the spec's decision D1), with the timer step of R340 and R341 in the Paused state and the tick of R330 and R334 in the
Running one. Runs are those of the pending list (log 6); fairness is a premise, since no step can show it (log 17). -/
def Obligations.FairTicksMakeProgress : Prop :=
  ∀ (ops : Nat → HostOp) (states : Nat → State), HostRun ops states → WeaklyFair ops → (∀ n, (ops n).isTick = true) →
    ((states 0).engine = .paused →
      ∃ n, ∀ m, n ≤ m → (states m).dt = 0 ∧ (states m).st = 0 ∧ (states m).engine = .paused ∧
        ((states 0).st = 0 → (states m).outputs = (states 0).outputs) ∧
        ((states 0).st ≠ 0 → (states m).outputs = .beep Config.beepFreqHz Config.beepDurationMs :: (states 0).outputs) ∧
        unchangedBut [.dt, .st, .keyboard, .outputs, .pending] (states 0) (states m)) ∧
    ((states 0).engine = .running →
      ∃ n t u, ops n = .tick t ∧ t.cycleDue = true ∧
        (∀ m, m ≤ n → (states m).engine = .running ∧
          unchangedBut [.dt, .st, .keyboard, .outputs, .pending] (states 0) (states m)) ∧
        cycle t.rnd (((states n).withPending []).setKeyboard t.keys) = .next u ∧
        (states (n + 1) = u ∨ states (n + 1) = u.timerStep))
end

