-- ==== Sys2Proof/Laws/Decode.lean ====
section
/-! SUPPORT. The masks, fields and encoded words of the table as numbers, and what the decoder answers. -/
namespace Sys2Proof

/-! ### Masks as arithmetic -/

theorem and_F000 (w : Word) : w &&& 0xF000#16 = (w >>> 12) <<< 12 := by
  apply BitVec.eq_of_getLsbD_eq
  intro i hi
  interval_cases i <;> simp

theorem and_FFF0 (w : Word) : w &&& 0xFFF0#16 = (w >>> 4) <<< 4 := by
  apply BitVec.eq_of_getLsbD_eq
  intro i hi
  interval_cases i <;> simp

theorem and_F00F (w : Word) : w &&& 0xF00F#16 = ((w >>> 12) <<< 12) ||| (w &&& 0x000F#16) := by
  apply BitVec.eq_of_getLsbD_eq
  intro i hi
  interval_cases i <;> simp

theorem and_F0FF (w : Word) : w &&& 0xF0FF#16 = ((w >>> 12) <<< 12) ||| (w &&& 0x00FF#16) := by
  apply BitVec.eq_of_getLsbD_eq
  intro i hi
  interval_cases i <;> simp

theorem toNat_and_F000 (w : Word) : (w &&& 0xF000#16).toNat = w.toNat / 4096 * 4096 := by
  rw [and_F000]
  simp only [BitVec.toNat_shiftLeft, BitVec.toNat_ushiftRight, Nat.shiftRight_eq_div_pow, Nat.shiftLeft_eq]
  have := w.isLt
  omega

theorem toNat_and_FFF0 (w : Word) : (w &&& 0xFFF0#16).toNat = w.toNat / 16 * 16 := by
  rw [and_FFF0]
  simp only [BitVec.toNat_shiftLeft, BitVec.toNat_ushiftRight, Nat.shiftRight_eq_div_pow, Nat.shiftLeft_eq]
  have := w.isLt
  omega

theorem shl_or {a b k : Nat} (hb : b < 2 ^ k) : (a * 2 ^ k) ||| b = a * 2 ^ k + b := by
  rw [← Nat.shiftLeft_eq, Nat.shiftLeft_add_eq_or_of_lt hb]

theorem toNat_and_F00F (w : Word) : (w &&& 0xF00F#16).toNat = w.toNat / 4096 * 4096 + w.toNat % 16 := by
  rw [and_F00F]
  have h1 : (w &&& 0x000F#16).toNat = w.toNat % 16 := by
    rw [BitVec.toNat_and]; exact Nat.and_two_pow_sub_one_eq_mod w.toNat 4
  have h2 : ((w >>> 12) <<< 12).toNat = w.toNat / 4096 * 4096 := by rw [← and_F000, toNat_and_F000]
  rw [BitVec.toNat_or, h1, h2]
  exact shl_or (k := 12) (by omega)

theorem toNat_and_F0FF (w : Word) : (w &&& 0xF0FF#16).toNat = w.toNat / 4096 * 4096 + w.toNat % 256 := by
  rw [and_F0FF]
  have h1 : (w &&& 0x00FF#16).toNat = w.toNat % 256 := by
    rw [BitVec.toNat_and]; exact Nat.and_two_pow_sub_one_eq_mod w.toNat 8
  have h2 : ((w >>> 12) <<< 12).toNat = w.toNat / 4096 * 4096 := by rw [← and_F000, toNat_and_F000]
  rw [BitVec.toNat_or, h1, h2]
  exact shl_or (k := 12) (by omega)

theorem toNat_and_FFFF (w : Word) : (w &&& 0xFFFF#16).toNat = w.toNat := by
  rw [show w &&& 0xFFFF#16 = w by
    apply BitVec.eq_of_getLsbD_eq
    intro i hi
    interval_cases i <;> simp]

/-- A comparison of words is one of numbers. -/
theorem beq_word (a b : Word) : (a == b) = decide (a.toNat = b.toNat) := by
  rw [Bool.eq_iff_iff]
  simp [BitVec.toNat_inj]

/-! ### Fields as arithmetic (R117) -/

theorem fieldX_val (w : Word) : (fieldX w).val = w.toNat / 256 % 16 := by
  simp [fieldX, Nat.shiftRight_eq_div_pow]

theorem fieldY_val (w : Word) : (fieldY w).val = w.toNat / 16 % 16 := by
  simp [fieldY, Nat.shiftRight_eq_div_pow]

theorem fieldN_val (w : Word) : (fieldN w).val = w.toNat % 16 := by
  simp [fieldN]

theorem fieldNN_toNat (w : Word) : (fieldNN w).toNat = w.toNat % 256 := by
  simp [fieldNN, BitVec.extractLsb_toNat]

theorem fieldNNN_toNat (w : Word) : (fieldNNN w).toNat = w.toNat % 4096 := by
  simp [fieldNNN, BitVec.extractLsb_toNat]

/-! ### Encoded words as numbers -/

/-- A pattern with its operands is a 16-bit number. -/
theorem pattern_add_bits_lt (i : Instr) : i.pattern + i.operands.bits < 65536 := by
  cases i <;> simp only [Instr.pattern, Instr.operands, Operands.bits] <;> omega

/-- The number that an encoded word is (R118, R120). -/
theorem encode_toNat (i : Instr) : (encode i).toNat = i.pattern + i.operands.bits := by
  rw [encode, BitVec.toNat_ofNat]
  exact Nat.mod_eq_of_lt (pattern_add_bits_lt i)

/-- The bytes of a word, joined with the first one high, are the word (R82). -/
theorem joinBytes_wordBytes (w : Word) : joinBytes (w.extractLsb 15 8) (w.extractLsb 7 0) = w := by
  apply BitVec.eq_of_getLsbD_eq
  intro i hi
  simp only [joinBytes, BitVec.getLsbD_append, BitVec.getLsbD_extractLsb]
  interval_cases i <;> simp

theorem joinBytes_toNat (hi lo : Byte) : (joinBytes hi lo).toNat = 256 * hi.toNat + lo.toNat := by
  rw [joinBytes, BitVec.toNat_append, ← Nat.shiftLeft_add_eq_or_of_lt lo.isLt, Nat.shiftLeft_eq]
  omega

/-- Decoding the bytes of a word is decoding the word. -/
theorem decodeBytes_wordBytes (w : Word) (rest : List Byte) :
    decodeBytes (wordBytes w ++ rest) = (decodeWord w).map fun i => (i, rest) := by
  simp only [wordBytes, List.cons_append, List.nil_append, decodeBytes]
  rw [joinBytes_wordBytes]

/-- A decoded word is selected by a row of the table, which built the instruction (R114). -/
theorem decodeWord_ok {w : Word} {i : Instr} (h : decodeWord w = .ok i) :
    ∃ r ∈ table, r.selects w = true ∧ i = r.build w := by
  unfold decodeWord at h
  split at h
  · rename_i r hr
    refine ⟨r, List.mem_of_find?_eq_some hr, List.find?_some (p := fun r : Row => r.selects w) hr, ?_⟩
    cases h
    rfl
  · split at h <;> cases h

/-- A refused word is selected by no row of the table (R122). -/
theorem decodeWord_error {w : Word} {e : DecodeReject} (h : decodeWord w = .error e) :
    (∀ r ∈ table, r.selects w = false) ∧ e = if w &&& 0xF000 == 0 then .sysSpace else .noRow := by
  unfold decodeWord at h
  split at h
  · cases h
  · rename_i hn
    rw [List.find?_eq_none] at hn
    refine ⟨fun r hr => by simpa using hn r hr, ?_⟩
    split at h <;> rename_i hw <;> cases h
    · exact (if_pos hw).symm
    · exact (if_neg hw).symm

end Sys2Proof
end

