-- ==== Sys2Proof/Laws/Memory.lean ====
section
/-! SUPPORT. The memory operations: read after write, what a write leaves alone, and the canonical form, which every operation
keeps and which determines the list. -/

namespace Sys2Proof.Machine.Memory

/-- The addresses of a memory list rise strictly. -/
def Sorted (m : List Host.Cell) : Prop := m.Pairwise fun p q => p.1 < q.1

variable (c : Config)

theorem wf_iff (m : List Host.Cell) :
    wf c m = true ↔ Sorted m ∧ ∀ p ∈ m, p.1 < 4096 ∧ p.2 ≠ unlisted c p.1 := by
  simp [wf, Sorted]

theorem sorted_of_wf {m : List Host.Cell} (h : wf c m = true) : Sorted m := ((wf_iff c m).1 h).1

/-- An address that no cell lists reads as its reset contents. -/
theorem read_of_absent {m : List Host.Cell} {a : Nat} (h : ∀ p ∈ m, p.1 ≠ a) : read c m a = unlisted c a := by
  induction m with
  | nil => rfl
  | cons p rest ih =>
    have hp := h p (by simp)
    simp only [read, if_neg hp]
    exact ih fun q hq => h q (by simp [hq])

/-- An address that a cell of a rising list lists reads as that cell's byte. -/
theorem read_of_mem {m : List Host.Cell} (hs : Sorted m) {a : Nat} {b : Byte} (h : (a, b) ∈ m) : read c m a = b := by
  induction m with
  | nil => simp at h
  | cons p rest ih =>
    obtain ⟨k, b'⟩ := p
    obtain ⟨hk, hr⟩ := List.pairwise_cons.1 hs
    rcases List.mem_cons.1 h with h | h
    · cases h; simp [read]
    · have : k ≠ a := Nat.ne_of_lt (hk _ h)
      simp only [read, if_neg this]
      exact ih hr h

theorem mem_erase {m : List Host.Cell} (hs : Sorted m) (a : Nat) (p : Host.Cell) :
    p ∈ erase m a ↔ p ∈ m ∧ p.1 ≠ a := by
  induction m with
  | nil => simp [erase]
  | cons q rest ih =>
    obtain ⟨k, b⟩ := q
    obtain ⟨hk, hr⟩ := List.pairwise_cons.1 hs
    have hk' : ∀ x ∈ rest, k < x.1 := hk
    unfold erase
    split
    · subst k
      constructor
      · exact fun h => ⟨by simp [h], (hk' p h).ne'⟩
      · rintro ⟨h, hn⟩
        rcases List.mem_cons.1 h with h | h
        · subst h; simp at hn
        · exact h
    · rename_i hka
      simp only [List.mem_cons, ih hr]
      constructor
      · rintro (h | ⟨h, hn⟩)
        · subst h; exact ⟨Or.inl rfl, hka⟩
        · exact ⟨Or.inr h, hn⟩
      · rintro ⟨h | h, hn⟩
        · exact Or.inl h
        · exact Or.inr ⟨h, hn⟩

theorem sorted_erase {m : List Host.Cell} (hs : Sorted m) (a : Nat) : Sorted (erase m a) := by
  induction m with
  | nil => simpa [erase] using hs
  | cons q rest ih =>
    obtain ⟨k, b⟩ := q
    obtain ⟨hk, hr⟩ := List.pairwise_cons.1 hs
    unfold erase
    split
    · exact hr
    · exact List.pairwise_cons.2 ⟨fun p hp => hk p ((mem_erase hr a p).1 hp).1, ih hr⟩

theorem mem_insert {m : List Host.Cell} (hs : Sorted m) (a : Nat) (b : Byte) (p : Host.Cell) :
    p ∈ insert m a b ↔ p = (a, b) ∨ (p ∈ m ∧ p.1 ≠ a) := by
  induction m with
  | nil => simp [insert]
  | cons q rest ih =>
    obtain ⟨k, b'⟩ := q
    obtain ⟨hk, hr⟩ := List.pairwise_cons.1 hs
    have hk' : ∀ x ∈ rest, k < x.1 := hk
    unfold insert
    split
    · rename_i hak
      simp only [List.mem_cons]
      constructor
      · rintro (h | h | h)
        · exact Or.inl h
        · subst h; exact Or.inr ⟨Or.inl rfl, hak.ne'⟩
        · exact Or.inr ⟨Or.inr h, (hak.trans (hk' p h)).ne'⟩
      · rintro (h | ⟨h | h, -⟩)
        · exact Or.inl h
        · exact Or.inr (Or.inl h)
        · exact Or.inr (Or.inr h)
    · split
      · subst k
        simp only [List.mem_cons]
        constructor
        · rintro (h | h)
          · exact Or.inl h
          · exact Or.inr ⟨Or.inr h, (hk' p h).ne'⟩
        · rintro (h | ⟨h | h, hn⟩)
          · exact Or.inl h
          · subst h; simp at hn
          · exact Or.inr h
      · rename_i hka
        simp only [List.mem_cons, ih hr]
        constructor
        · rintro (h | h | ⟨h, hn⟩)
          · subst h; exact Or.inr ⟨Or.inl rfl, hka⟩
          · exact Or.inl h
          · exact Or.inr ⟨Or.inr h, hn⟩
        · rintro (h | ⟨h | h, hn⟩)
          · exact Or.inr (Or.inl h)
          · exact Or.inl h
          · exact Or.inr (Or.inr ⟨h, hn⟩)

theorem sorted_insert {m : List Host.Cell} (hs : Sorted m) (a : Nat) (b : Byte) : Sorted (insert m a b) := by
  induction m with
  | nil => simp [insert, Sorted]
  | cons q rest ih =>
    obtain ⟨k, b'⟩ := q
    obtain ⟨hk, hr⟩ := List.pairwise_cons.1 hs
    have hk' : ∀ x ∈ rest, k < x.1 := hk
    unfold insert
    split
    · rename_i hak
      refine List.pairwise_cons.2 ⟨fun p hp => ?_, hs⟩
      rcases List.mem_cons.1 hp with h | h
      · subst h; exact hak
      · exact hak.trans (hk' p h)
    · split
      · subst k; exact List.pairwise_cons.2 ⟨hk, hr⟩
      · rename_i h1 h2
        refine List.pairwise_cons.2 ⟨fun p hp => ?_, ih hr⟩
        rcases (mem_insert hr a b p).1 hp with h | h
        · subst h; exact Nat.lt_of_le_of_ne (Nat.le_of_not_lt h1) h2
        · exact hk' p h.1

/-- The cells of a written list: the new cell, unless it holds the reset contents, and the cells of other addresses. -/
theorem mem_write {m : List Host.Cell} (hs : Sorted m) (a : Nat) (b : Byte) (p : Host.Cell) :
    p ∈ write c m a b ↔ (p = (a, b) ∧ b ≠ unlisted c a) ∨ (p ∈ m ∧ p.1 ≠ a) := by
  unfold write
  split <;> rename_i h
  · simp [mem_erase hs, h]
  · simp [mem_insert hs, h]

theorem sorted_write {m : List Host.Cell} (hs : Sorted m) (a : Nat) (b : Byte) : Sorted (write c m a b) := by
  unfold write
  split
  · exact sorted_erase hs a
  · exact sorted_insert hs a b

/-- Every write below 4096 keeps the canonical form. -/
theorem wf_write {m : List Host.Cell} (h : wf c m = true) {a : Nat} (ha : a < 4096) (b : Byte) :
    wf c (write c m a b) = true := by
  obtain ⟨hs, hm⟩ := (wf_iff c m).1 h
  refine (wf_iff c _).2 ⟨sorted_write c hs a b, fun p hp => ?_⟩
  rcases (mem_write c hs a b p).1 hp with ⟨rfl, hb⟩ | ⟨hp, -⟩
  · exact ⟨ha, hb⟩
  · exact hm p hp

/-- A read of the written address gives the byte written. -/
theorem read_write_same {m : List Host.Cell} (hs : Sorted m) (a : Nat) (b : Byte) : read c (write c m a b) a = b := by
  by_cases hb : b = unlisted c a
  · rw [read_of_absent c fun p hp => ?_, hb]
    rcases (mem_write c hs a b p).1 hp with ⟨-, h⟩ | ⟨-, h⟩
    · exact absurd hb h
    · exact h
  · exact read_of_mem c (sorted_write c hs a b) ((mem_write c hs a b _).2 (Or.inl ⟨rfl, hb⟩))

theorem read_erase_other (m : List Host.Cell) {a k : Nat} (h : k ≠ a) : read c (erase m a) k = read c m k := by
  induction m with
  | nil => rfl
  | cons q rest ih =>
    obtain ⟨j, b⟩ := q
    unfold erase
    split
    · subst j; simp [read, h.symm]
    · simp only [read, ih]

theorem read_insert_other (m : List Host.Cell) {a k : Nat} (b : Byte) (h : k ≠ a) :
    read c (insert m a b) k = read c m k := by
  induction m with
  | nil => simp [insert, read, h.symm]
  | cons q rest ih =>
    obtain ⟨j, b'⟩ := q
    unfold insert
    split
    · simp [read, h.symm]
    · split
      · subst j; simp [read, h.symm]
      · simp only [read, ih]

/-- A write leaves every other address alone. -/
theorem read_write_other (m : List Host.Cell) {a k : Nat} (b : Byte) (h : k ≠ a) :
    read c (write c m a b) k = read c m k := by
  unfold write
  split
  · exact read_erase_other c m h
  · exact read_insert_other c m b h

theorem sorted_writeBytes {m : List Host.Cell} (hs : Sorted m) (a : Nat) (bs : List Byte) :
    Sorted (writeBytes c m a bs) := by
  induction bs generalizing m a with
  | nil => exact hs
  | cons b rest ih => exact ih (sorted_write c hs a b) (a + 1)

/-- A write of bytes that ends below 4096 keeps the canonical form. -/
theorem wf_writeBytes {m : List Host.Cell} (h : wf c m = true) {a : Nat} {bs : List Byte} (ha : a + bs.length ≤ 4096) :
    wf c (writeBytes c m a bs) = true := by
  induction bs generalizing m a with
  | nil => exact h
  | cons b rest ih =>
    simp only [List.length_cons] at ha
    exact ih (wf_write c h (by omega) b) (by omega)

/-- Everything a write of bytes does to the byte at an address: those written read as written, every other as before. -/
theorem read_writeBytes {m : List Host.Cell} (hs : Sorted m) (a : Nat) (bs : List Byte) (k : Nat) :
    read c (writeBytes c m a bs) k = if h : a ≤ k ∧ k < a + bs.length then bs[k - a] else read c m k := by
  induction bs generalizing m a with
  | nil => simp only [writeBytes, List.length_nil]; split <;> [omega; rfl]
  | cons b rest ih =>
    rw [writeBytes, ih (sorted_write c hs a b)]
    by_cases h1 : k = a
    · subst h1
      simp [read_write_same c hs]
    · rw [read_write_other c m b h1]
      by_cases h2 : a + 1 ≤ k ∧ k < a + 1 + rest.length
      · have h3 : a ≤ k ∧ k < a + (b :: rest).length := by simp; omega
        rw [dif_pos h2, dif_pos h3]
        have : k - a = k - (a + 1) + 1 := by omega
        simp [this]
      · have h3 : ¬ (a ≤ k ∧ k < a + (b :: rest).length) := by simp; omega
        rw [dif_neg h2, dif_neg h3]

/-- A write of bytes leaves the addresses outside it alone, in any list. -/
theorem read_writeBytes_outside (m : List Host.Cell) (a : Nat) (bs : List Byte) {k : Nat}
    (h : k < a ∨ a + bs.length ≤ k) : read c (writeBytes c m a bs) k = read c m k := by
  induction bs generalizing m a with
  | nil => rfl
  | cons b rest ih =>
    simp only [List.length_cons] at h
    rw [writeBytes, ih _ _ (by omega), read_write_other c m b (by omega)]

theorem wf_nil : wf c [] = true := by simp [wf]

/-- The list made from contents is canonical. -/
theorem wf_ofContents (f : Nat → Byte) : wf c (ofContents c f) = true := by
  refine (wf_iff c _).2 ⟨?_, fun p hp => ?_⟩
  · unfold Sorted ofContents
    rw [List.pairwise_map]
    exact (List.pairwise_lt_range).filter _
  · simp only [ofContents, List.mem_map, List.mem_filter, List.mem_range] at hp
    obtain ⟨a, ⟨ha, hf⟩, rfl⟩ := hp
    exact ⟨ha, by simpa using hf⟩

/-- The list made from contents reads as those contents below 4096. -/
theorem read_ofContents (f : Nat → Byte) {a : Nat} (ha : a < 4096) : read c (ofContents c f) a = f a := by
  by_cases hf : f a = unlisted c a
  · rw [read_of_absent c fun p hp => ?_, hf]
    simp only [ofContents, List.mem_map, List.mem_filter, List.mem_range] at hp
    obtain ⟨k, ⟨-, hk⟩, rfl⟩ := hp
    rintro rfl
    simp [hf] at hk
  · refine read_of_mem c (sorted_of_wf c (wf_ofContents c f)) ?_
    simp [ofContents, ha, hf]

/-- Two canonical lists that read the same below 4096 are the same list. -/
theorem ext_of_wf {m n : List Host.Cell} (hm : wf c m = true) (hn : wf c n = true)
    (h : ∀ a < 4096, read c m a = read c n a) : m = n := by
  have sub : ∀ {m n : List Host.Cell}, wf c m = true → wf c n = true → (∀ a < 4096, read c m a = read c n a) →
      ∀ p ∈ m, p ∈ n := by
    intro m n hm hn h p hp
    obtain ⟨hs, hm'⟩ := (wf_iff c m).1 hm
    obtain ⟨ha, hb⟩ := hm' p hp
    by_contra hq
    have h1 : read c m p.1 = p.2 := read_of_mem c hs hp
    have h2 : ∀ q ∈ n, q.1 ≠ p.1 := by
      rintro q hq' hqp
      have h3 := read_of_mem c (sorted_of_wf c hn) (a := q.1) (b := q.2) hq'
      rw [hqp, ← h p.1 ha, h1] at h3
      exact hq (by rwa [show p = q from Prod.ext hqp.symm h3])
    rw [h p.1 ha, read_of_absent c h2] at h1
    exact hb h1.symm
  have irr : ∀ p q : Host.Cell, p.1 < q.1 → ¬ q.1 < p.1 := fun p q h => Nat.lt_asymm h
  refine List.Perm.eq_of_pairwise (le := fun p q : Host.Cell => p.1 < q.1) (fun p q _ _ h h' => absurd h' (irr p q h))
    (sorted_of_wf c hm) (sorted_of_wf c hn) ?_
  refine (List.perm_ext_iff_of_nodup ?_ ?_).2 fun p => ⟨sub hm hn h p, sub hn hm (fun a ha => (h a ha).symm) p⟩
  · exact (sorted_of_wf c hm).imp fun h => by rintro rfl; exact absurd h (Nat.lt_irrefl _)
  · exact (sorted_of_wf c hn).imp fun h => by rintro rfl; exact absurd h (Nat.lt_irrefl _)

end Sys2Proof.Machine.Memory
end

