-- ==== Sys2Proof/Laws/Pixels.lean ====
section
/-! SUPPORT. The pixel buffer operations: what each leaves lit, and the canonical form, which every operation keeps and which
determines the list. -/

namespace Sys2Proof.Machine.Pixels

/-- The entries of a buffer rise strictly. -/
def Sorted (p : List Nat) : Prop := p.Pairwise fun a b => a < b

theorem wf_iff (p : List Nat) : wf p = true ↔ Sorted p ∧ ∀ k ∈ p, k < 8192 := by simp [wf, Sorted]

theorem sorted_of_wf {p : List Nat} (h : wf p = true) : Sorted p := ((wf_iff p).1 h).1

theorem wf_nil : wf [] = true := by simp [wf]

@[simp] theorem lit_iff (p : List Nat) (k : Nat) : lit p k = true ↔ k ∈ p := by simp [lit]

theorem lit_eq_decide (p : List Nat) (k : Nat) : lit p k = decide (k ∈ p) := by simp [lit]

theorem mem_flip {p : List Nat} (hs : Sorted p) (a k : Nat) : k ∈ flip p a ↔ (k ∈ p ∧ k ≠ a) ∨ (k = a ∧ a ∉ p) := by
  induction p with
  | nil => simp [flip]
  | cons q rest ih =>
    obtain ⟨hq, hr⟩ := List.pairwise_cons.1 hs
    have hq' : ∀ x ∈ rest, q < x := hq
    unfold flip
    split
    · rename_i haq
      have ha : a ∉ q :: rest := by
        intro h
        rcases List.mem_cons.1 h with h | h
        · omega
        · have := hq' a h; omega
      have hk : k ∈ q :: rest → k ≠ a := by rintro h rfl; exact ha h
      rw [List.mem_cons]
      tauto
    · split
      · subst q
        have ha : a ∉ rest := fun h => Nat.lt_irrefl _ (hq' a h)
        have hk : k ∈ rest → k ≠ a := by rintro h rfl; exact ha h
        simp only [List.mem_cons]
        tauto
      · rename_i h1 h2
        have : a ≠ q := fun h => h2 h.symm
        have hk : k = q → k ≠ a := by rintro rfl; exact h2
        simp only [List.mem_cons, ih hr]
        tauto

theorem sorted_flip {p : List Nat} (hs : Sorted p) (a : Nat) : Sorted (flip p a) := by
  induction p with
  | nil => simp [flip, Sorted]
  | cons q rest ih =>
    obtain ⟨hq, hr⟩ := List.pairwise_cons.1 hs
    have hq' : ∀ x ∈ rest, q < x := hq
    unfold flip
    split
    · rename_i haq
      refine List.pairwise_cons.2 ⟨fun x hx => ?_, hs⟩
      rcases List.mem_cons.1 hx with h | h
      · omega
      · exact haq.trans (hq' x h)
    · split
      · exact hr
      · rename_i h1 h2
        refine List.pairwise_cons.2 ⟨fun x hx => ?_, ih hr⟩
        rcases (mem_flip hr a x).1 hx with h | h
        · exact hq' x h.1
        · omega

/-- Flipping an entry inverts it and leaves every other alone. -/
theorem lit_flip {p : List Nat} (hs : Sorted p) (a k : Nat) :
    lit (flip p a) k = if k = a then !lit p k else lit p k := by
  simp only [lit_eq_decide, mem_flip hs]
  by_cases h : k = a
  · subst h; simp
  · simp [h]

theorem wf_flip {p : List Nat} (h : wf p = true) {a : Nat} (ha : a < 8192) : wf (flip p a) = true := by
  obtain ⟨hs, hm⟩ := (wf_iff p).1 h
  refine (wf_iff _).2 ⟨sorted_flip hs a, fun k hk => ?_⟩
  rcases (mem_flip hs a k).1 hk with h | h
  · exact hm k h.1
  · omega

theorem lit_clearBelow (p : List Nat) (n k : Nat) : lit (clearBelow p n) k = (decide (n ≤ k) && lit p k) := by
  simp only [lit_eq_decide, clearBelow, List.mem_filter, decide_eq_true_eq]
  by_cases h : n ≤ k <;> simp [h]

theorem wf_clearBelow {p : List Nat} (h : wf p = true) (n : Nat) : wf (clearBelow p n) = true := by
  obtain ⟨hs, hm⟩ := (wf_iff p).1 h
  exact (wf_iff _).2 ⟨hs.filter _, fun k hk => hm k (List.mem_filter.1 hk).1⟩

/-- A move of entries that keeps their order, and keeps each in the buffer, keeps the canonical form. -/
theorem wf_filterMap {p : List Nat} (h : wf p = true) (f : Nat → Option Nat)
    (hmono : ∀ a b a' b', a < b → f a = some a' → f b = some b' → a' < b')
    (hin : ∀ a a', a < 8192 → f a = some a' → a' < 8192) : wf (p.filterMap f) = true := by
  obtain ⟨hs, hm⟩ := (wf_iff p).1 h
  refine (wf_iff _).2 ⟨?_, fun k hk => ?_⟩
  · unfold Sorted
    rw [List.pairwise_filterMap]
    exact hs.imp fun hab a' ha b' hb => hmono _ _ _ _ hab ha hb
  · obtain ⟨a, ha, hk⟩ := List.mem_filterMap.1 hk
    exact hin a k (hm a ha) hk

/-- The two sizes of picture, `Width() × Height()` (R15). -/
def IsPicture (w h : Nat) : Prop := (w = 64 ∧ h = 32) ∨ (w = 128 ∧ h = 64)

theorem wf_scrollDown {p : List Nat} (hp : wf p = true) {w h : Nat} (hw : IsPicture w h) (n : Nat) :
    wf (scrollDown p w h n) = true := by
  apply wf_filterMap hp
  · intro a b a' b' hab ha hb
    rcases hw with ⟨rfl, rfl⟩ | ⟨rfl, rfl⟩ <;> (split at ha <;> split at hb) <;> (try split at ha) <;> (try split at hb) <;>
      simp only [Option.some.injEq, reduceCtorEq] at ha hb <;> omega
  · intro a a' ha h
    rcases hw with ⟨rfl, rfl⟩ | ⟨rfl, rfl⟩ <;> split at h <;> (try split at h) <;>
      simp only [Option.some.injEq, reduceCtorEq] at h <;> omega

theorem wf_scrollRight {p : List Nat} (hp : wf p = true) {w h : Nat} (hw : IsPicture w h) :
    wf (scrollRight p w h) = true := by
  apply wf_filterMap hp
  · intro a b a' b' hab ha hb
    rcases hw with ⟨rfl, rfl⟩ | ⟨rfl, rfl⟩ <;> (split at ha <;> split at hb) <;> (try split at ha) <;> (try split at hb) <;>
      simp only [Option.some.injEq, reduceCtorEq] at ha hb <;> omega
  · intro a a' ha h
    rcases hw with ⟨rfl, rfl⟩ | ⟨rfl, rfl⟩ <;> split at h <;> (try split at h) <;>
      simp only [Option.some.injEq, reduceCtorEq] at h <;> omega

theorem wf_scrollLeft {p : List Nat} (hp : wf p = true) {w h : Nat} (hw : IsPicture w h) :
    wf (scrollLeft p w h) = true := by
  apply wf_filterMap hp
  · intro a b a' b' hab ha hb
    rcases hw with ⟨rfl, rfl⟩ | ⟨rfl, rfl⟩ <;> (split at ha <;> split at hb) <;> (try split at ha) <;> (try split at hb) <;>
      simp only [Option.some.injEq, reduceCtorEq] at ha hb <;> omega
  · intro a a' ha h
    rcases hw with ⟨rfl, rfl⟩ | ⟨rfl, rfl⟩ <;> split at h <;> (try split at h) <;>
      simp only [Option.some.injEq, reduceCtorEq] at h <;> omega

/-- The entries after a scroll down: those of the picture come from `n` rows above, the others stay (R185). -/
theorem lit_scrollDown (p : List Nat) {w h : Nat} (hw : IsPicture w h) (n k : Nat) :
    lit (scrollDown p w h n) k =
      if k < w * h then decide (n ≤ k / w) && lit p (k - n * w) else lit p k := by
  rw [Bool.eq_iff_iff]
  simp only [lit_iff, scrollDown, List.mem_filterMap]
  constructor
  · rintro ⟨a, ha, hk⟩
    rcases hw with ⟨rfl, rfl⟩ | ⟨rfl, rfl⟩ <;> split at hk <;> (try split at hk) <;>
      simp only [Option.some.injEq, reduceCtorEq] at hk <;> subst hk
    · have h1 : a + n * 64 < 64 * 32 := by omega
      have h2 : a + n * 64 - n * 64 = a := by omega
      rw [if_pos h1, h2]; simp [ha]; omega
    · rw [if_neg (by omega)]; simpa using ha
    · have h1 : a + n * 128 < 128 * 64 := by omega
      have h2 : a + n * 128 - n * 128 = a := by omega
      rw [if_pos h1, h2]; simp [ha]; omega
    · rw [if_neg (by omega)]; simpa using ha
  · intro hk
    split at hk
    · simp only [Bool.and_eq_true, decide_eq_true_eq, lit_iff] at hk
      refine ⟨_, hk.2, ?_⟩
      rcases hw with ⟨rfl, rfl⟩ | ⟨rfl, rfl⟩ <;> rw [if_pos (by omega), if_pos (by omega)] <;>
        simp only [Option.some.injEq] <;> omega
    · rename_i hn
      exact ⟨k, by simpa using hk, by rw [if_neg hn]⟩

/-- The entries after a scroll right: those of the picture come from 4 columns to the left, the others stay (R186). -/
theorem lit_scrollRight (p : List Nat) {w h : Nat} (hw : IsPicture w h) (k : Nat) :
    lit (scrollRight p w h) k = if k < w * h then decide (4 ≤ k % w) && lit p (k - 4) else lit p k := by
  rw [Bool.eq_iff_iff]
  simp only [lit_iff, scrollRight, List.mem_filterMap]
  constructor
  · rintro ⟨a, ha, hk⟩
    rcases hw with ⟨rfl, rfl⟩ | ⟨rfl, rfl⟩ <;> split at hk <;> (try split at hk) <;>
      simp only [Option.some.injEq, reduceCtorEq] at hk <;> subst hk
    · rw [if_pos (by omega)]; simp [ha]; omega
    · rw [if_neg (by omega)]; simpa using ha
    · rw [if_pos (by omega)]; simp [ha]; omega
    · rw [if_neg (by omega)]; simpa using ha
  · intro hk
    split at hk
    · simp only [Bool.and_eq_true, decide_eq_true_eq, lit_iff] at hk
      refine ⟨_, hk.2, ?_⟩
      rcases hw with ⟨rfl, rfl⟩ | ⟨rfl, rfl⟩ <;> rw [if_pos (by omega), if_pos (by omega)] <;>
        simp only [Option.some.injEq] <;> omega
    · rename_i hn
      exact ⟨k, by simpa using hk, by rw [if_neg hn]⟩

/-- The entries after a scroll left: those of the picture come from 4 columns to the right, the others stay (R187). -/
theorem lit_scrollLeft (p : List Nat) {w h : Nat} (hw : IsPicture w h) (k : Nat) :
    lit (scrollLeft p w h) k = if k < w * h then decide (k % w + 4 < w) && lit p (k + 4) else lit p k := by
  rw [Bool.eq_iff_iff]
  simp only [lit_iff, scrollLeft, List.mem_filterMap]
  constructor
  · rintro ⟨a, ha, hk⟩
    rcases hw with ⟨rfl, rfl⟩ | ⟨rfl, rfl⟩ <;> split at hk <;> (try split at hk) <;>
      simp only [Option.some.injEq, reduceCtorEq] at hk <;> subst hk
    · have h2 : a - 4 + 4 = a := by omega
      rw [if_pos (by omega), h2]; simp [ha]; omega
    · rw [if_neg (by omega)]; simpa using ha
    · have h2 : a - 4 + 4 = a := by omega
      rw [if_pos (by omega), h2]; simp [ha]; omega
    · rw [if_neg (by omega)]; simpa using ha
  · intro hk
    split at hk
    · simp only [Bool.and_eq_true, decide_eq_true_eq, lit_iff] at hk
      refine ⟨_, hk.2, ?_⟩
      rcases hw with ⟨rfl, rfl⟩ | ⟨rfl, rfl⟩ <;> rw [if_pos (by omega), if_pos (by omega)] <;>
        simp only [Option.some.injEq] <;> omega
    · rename_i hn
      exact ⟨k, by simpa using hk, by rw [if_neg hn]⟩

/-- Drawing keeps a rising list rising. -/
theorem sorted_xorPoints {p : List Nat} (hs : Sorted p) (c : Bool) (ks : List Nat) : Sorted (xorPoints p c ks).1 := by
  induction ks generalizing p c with
  | nil => exact hs
  | cons k rest ih => exact ih (sorted_flip hs k) _

theorem wf_xorPoints {p : List Nat} (h : wf p = true) (c : Bool) {ks : List Nat} (hk : ∀ k ∈ ks, k < 8192) :
    wf (xorPoints p c ks).1 = true := by
  induction ks generalizing p c with
  | nil => exact h
  | cons k rest ih => exact ih (wf_flip h (hk k (by simp))) _ fun j hj => hk j (by simp [hj])

/-- The picture after drawing distinct points: each is inverted, every other entry stays (R182). -/
theorem lit_xorPoints {p : List Nat} (hs : Sorted p) (c : Bool) {ks : List Nat} (hn : ks.Nodup) (k : Nat) :
    lit (xorPoints p c ks).1 k = if k ∈ ks then !lit p k else lit p k := by
  induction ks generalizing p c with
  | nil => simp [xorPoints]
  | cons j rest ih =>
    obtain ⟨hj, hr⟩ := List.nodup_cons.1 hn
    rw [xorPoints, ih (sorted_flip hs j) _ hr, lit_flip hs]
    by_cases h : k = j
    · subst h; simp [hj]
    · simp [h]

/-- The collision after drawing distinct points: some point was lit before (R182). -/
theorem collide_xorPoints {p : List Nat} (hs : Sorted p) (c : Bool) {ks : List Nat} (hn : ks.Nodup) :
    (xorPoints p c ks).2 = true ↔ c = true ∨ ∃ k ∈ ks, lit p k = true := by
  induction ks generalizing p c with
  | nil => simp [xorPoints]
  | cons j rest ih =>
    obtain ⟨hj, hr⟩ := List.nodup_cons.1 hn
    rw [xorPoints, ih (sorted_flip hs j) _ hr]
    have : ∀ k ∈ rest, lit (flip p j) k = lit p k := by
      intro k hk
      rw [lit_flip hs, if_neg]
      rintro rfl
      exact hj hk
    simp only [Bool.or_eq_true, List.mem_cons, exists_eq_or_imp, or_assoc]
    have e : (∃ k ∈ rest, lit (flip p j) k = true) ↔ ∃ k ∈ rest, lit p k = true :=
      exists_congr fun k => and_congr_right fun hk => by rw [this k hk]
    rw [e]

/-- The points of a sprite, by row and column. -/
theorem mem_spritePoints (w h xs ys rows cols : Nat) (rowbits : Nat → Nat) (k : Nat) :
    k ∈ spritePoints w h xs ys rows cols rowbits ↔
      ∃ r < rows, ∃ c < cols, (rowbits r).testBit (cols - 1 - c) = true ∧ k = (ys + r) % h * w + (xs + c) % w := by
  simp only [spritePoints, List.mem_flatMap, List.mem_map, List.mem_filter, List.mem_range]
  constructor
  · rintro ⟨r, hr, c, ⟨hc, hb⟩, rfl⟩
    exact ⟨r, hr, c, hc, hb, rfl⟩
  · rintro ⟨r, hr, c, hc, hb, rfl⟩
    exact ⟨r, hr, c, ⟨hc, hb⟩, rfl⟩

theorem add_mod_inj {a b c w : Nat} (hb : b < w) (hc : c < w) (h : (a + b) % w = (a + c) % w) : b = c :=
  Nat.ModEq.eq_of_lt_of_lt (Nat.ModEq.add_left_cancel' a h) hb hc

/-- A pixel's entry determines its row and column. -/
theorem index_inj {w x y x' y' : Nat} (hx : x < w) (hx' : x' < w) (h : y * w + x = y' * w + x') : y = y' ∧ x = x' := by
  have hw : 0 < w := by omega
  have hy : (y * w + x) / w = y := by rw [Nat.add_comm, Nat.add_mul_div_right _ _ hw, Nat.div_eq_of_lt hx, Nat.zero_add]
  have hy' : (y' * w + x') / w = y' := by
    rw [Nat.add_comm, Nat.add_mul_div_right _ _ hw, Nat.div_eq_of_lt hx', Nat.zero_add]
  have : y = y' := by rw [← hy, h, hy']
  subst this
  exact ⟨rfl, by omega⟩

/-- No two set bits of a sprite reach the same pixel, since it is no larger than the picture (R182). -/
theorem nodup_spritePoints {w h rows cols : Nat} (xs ys : Nat) (rowbits : Nat → Nat) (hr : rows ≤ h) (hc : cols ≤ w)
    (hw : 0 < w) : (spritePoints w h xs ys rows cols rowbits).Nodup := by
  have hx : ∀ c, (xs + c) % w < w := fun c => Nat.mod_lt _ hw
  unfold spritePoints
  rw [List.nodup_flatMap]
  constructor
  · intro r _
    refine List.Nodup.map_on ?_ (List.nodup_range.filter _)
    intro a ha b hb hab
    simp only [List.mem_filter, List.mem_range] at ha hb
    exact add_mod_inj (by omega) (by omega) (index_inj (hx a) (hx b) hab).2
  · refine List.Pairwise.imp_of_mem ?_ (List.pairwise_lt_range)
    intro r r' hr1 hr2 hlt
    simp only [Function.onFun, List.disjoint_left, List.mem_map, List.mem_filter, List.mem_range]
    rintro k ⟨c, -, rfl⟩ ⟨c', -, hk⟩
    simp only [List.mem_range] at hr1 hr2
    have := add_mod_inj (a := ys) (by omega) (by omega) (index_inj (hx c') (hx c) hk).1
    omega

/-- Every point of a sprite lies in the picture. -/
theorem spritePoints_lt {w h xs ys rows cols : Nat} {rowbits : Nat → Nat} (hw : 0 < w) (hh : 0 < h) {k : Nat}
    (hk : k ∈ spritePoints w h xs ys rows cols rowbits) : k < w * h := by
  obtain ⟨r, -, c, -, -, rfl⟩ := (mem_spritePoints ..).1 hk
  have hy : (ys + r) % h < h := Nat.mod_lt _ hh
  have hx : (xs + c) % w < w := Nat.mod_lt _ hw
  calc (ys + r) % h * w + (xs + c) % w < (ys + r) % h * w + w := by omega
    _ = ((ys + r) % h + 1) * w := by ring
    _ ≤ h * w := Nat.mul_le_mul_right _ hy
    _ = w * h := Nat.mul_comm _ _

/-- Two canonical buffers with the same lit entries are the same list. -/
theorem ext_of_wf {p q : List Nat} (hp : wf p = true) (hq : wf q = true) (h : ∀ k, lit p k = lit q k) : p = q := by
  have hmem : ∀ k, k ∈ p ↔ k ∈ q := fun k => by rw [← lit_iff, ← lit_iff, h]
  refine List.Perm.eq_of_pairwise (le := fun a b : Nat => a < b) (fun a b _ _ h h' => absurd h' (Nat.lt_asymm h))
    (sorted_of_wf hp) (sorted_of_wf hq) ?_
  refine (List.perm_ext_iff_of_nodup ?_ ?_).2 hmem
  · exact (sorted_of_wf hp).imp fun h => Nat.ne_of_lt h
  · exact (sorted_of_wf hq).imp fun h => Nat.ne_of_lt h

end Sys2Proof.Machine.Pixels
end

