-- ==== Sys2Proof/Laws/State.lean ====
section
/-! SUPPORT. What each named update does to each field of State: one lemma per field per update, each true by rfl, so that no
proof unfolds a record update. -/

namespace Sys2Proof.Machine.State

variable (s : State)

/-! `setV` -/

@[simp] theorem setV_v (x : Reg) (b : Byte) : (s.setV x b).v = s.v.set x.val b := rfl
@[simp] theorem setV_i (x : Reg) (b : Byte) : (s.setV x b).i = s.i := rfl
@[simp] theorem setV_pc (x : Reg) (b : Byte) : (s.setV x b).pc = s.pc := rfl
@[simp] theorem setV_sp (x : Reg) (b : Byte) : (s.setV x b).sp = s.sp := rfl
@[simp] theorem setV_dt (x : Reg) (b : Byte) : (s.setV x b).dt = s.dt := rfl
@[simp] theorem setV_st (x : Reg) (b : Byte) : (s.setV x b).st = s.st := rfl
@[simp] theorem setV_ir (x : Reg) (b : Byte) : (s.setV x b).ir = s.ir := rfl
@[simp] theorem setV_stack (x : Reg) (b : Byte) : (s.setV x b).stack = s.stack := rfl
@[simp] theorem setV_mem (x : Reg) (b : Byte) : (s.setV x b).mem = s.mem := rfl
@[simp] theorem setV_r (x : Reg) (b : Byte) : (s.setV x b).r = s.r := rfl
@[simp] theorem setV_extendedMode (x : Reg) (b : Byte) : (s.setV x b).extendedMode = s.extendedMode := rfl
@[simp] theorem setV_pixels (x : Reg) (b : Byte) : (s.setV x b).pixels = s.pixels := rfl
@[simp] theorem setV_displayChanged (x : Reg) (b : Byte) : (s.setV x b).displayChanged = s.displayChanged := rfl
@[simp] theorem setV_keyboard (x : Reg) (b : Byte) : (s.setV x b).keyboard = s.keyboard := rfl
@[simp] theorem setV_exited (x : Reg) (b : Byte) : (s.setV x b).exited = s.exited := rfl
@[simp] theorem setV_paused (x : Reg) (b : Byte) : (s.setV x b).paused = s.paused := rfl
@[simp] theorem setV_faultCause (x : Reg) (b : Byte) : (s.setV x b).faultCause = s.faultCause := rfl
@[simp] theorem setV_faultInfo (x : Reg) (b : Byte) : (s.setV x b).faultInfo = s.faultInfo := rfl
@[simp] theorem setV_config (x : Reg) (b : Byte) : (s.setV x b).config = s.config := rfl
@[simp] theorem setV_rnd (x : Reg) (b : Byte) : (s.setV x b).rnd = s.rnd := rfl
@[simp] theorem setV_draws (x : Reg) (b : Byte) : (s.setV x b).draws = s.draws := rfl
@[simp] theorem setV_pending (x : Reg) (b : Byte) : (s.setV x b).pending = s.pending := rfl
@[simp] theorem setV_outputs (x : Reg) (b : Byte) : (s.setV x b).outputs = s.outputs := rfl

/-! `setVUpTo` -/

@[simp] theorem setVUpTo_v (x : Reg) (f : Nat → Byte) : (s.setVUpTo x f).v = Vector.ofFn fun k => if k.val ≤ x.val then f k.val else s.v[k.val] := rfl
@[simp] theorem setVUpTo_i (x : Reg) (f : Nat → Byte) : (s.setVUpTo x f).i = s.i := by simp only [State.setVUpTo]
@[simp] theorem setVUpTo_pc (x : Reg) (f : Nat → Byte) : (s.setVUpTo x f).pc = s.pc := by simp only [State.setVUpTo]
@[simp] theorem setVUpTo_sp (x : Reg) (f : Nat → Byte) : (s.setVUpTo x f).sp = s.sp := by simp only [State.setVUpTo]
@[simp] theorem setVUpTo_dt (x : Reg) (f : Nat → Byte) : (s.setVUpTo x f).dt = s.dt := by simp only [State.setVUpTo]
@[simp] theorem setVUpTo_st (x : Reg) (f : Nat → Byte) : (s.setVUpTo x f).st = s.st := by simp only [State.setVUpTo]
@[simp] theorem setVUpTo_ir (x : Reg) (f : Nat → Byte) : (s.setVUpTo x f).ir = s.ir := by simp only [State.setVUpTo]
@[simp] theorem setVUpTo_stack (x : Reg) (f : Nat → Byte) : (s.setVUpTo x f).stack = s.stack := by simp only [State.setVUpTo]
@[simp] theorem setVUpTo_mem (x : Reg) (f : Nat → Byte) : (s.setVUpTo x f).mem = s.mem := by simp only [State.setVUpTo]
@[simp] theorem setVUpTo_r (x : Reg) (f : Nat → Byte) : (s.setVUpTo x f).r = s.r := by simp only [State.setVUpTo]
@[simp] theorem setVUpTo_extendedMode (x : Reg) (f : Nat → Byte) : (s.setVUpTo x f).extendedMode = s.extendedMode := by simp only [State.setVUpTo]
@[simp] theorem setVUpTo_pixels (x : Reg) (f : Nat → Byte) : (s.setVUpTo x f).pixels = s.pixels := by simp only [State.setVUpTo]
@[simp] theorem setVUpTo_displayChanged (x : Reg) (f : Nat → Byte) : (s.setVUpTo x f).displayChanged = s.displayChanged := by simp only [State.setVUpTo]
@[simp] theorem setVUpTo_keyboard (x : Reg) (f : Nat → Byte) : (s.setVUpTo x f).keyboard = s.keyboard := by simp only [State.setVUpTo]
@[simp] theorem setVUpTo_exited (x : Reg) (f : Nat → Byte) : (s.setVUpTo x f).exited = s.exited := by simp only [State.setVUpTo]
@[simp] theorem setVUpTo_paused (x : Reg) (f : Nat → Byte) : (s.setVUpTo x f).paused = s.paused := by simp only [State.setVUpTo]
@[simp] theorem setVUpTo_faultCause (x : Reg) (f : Nat → Byte) : (s.setVUpTo x f).faultCause = s.faultCause := by simp only [State.setVUpTo]
@[simp] theorem setVUpTo_faultInfo (x : Reg) (f : Nat → Byte) : (s.setVUpTo x f).faultInfo = s.faultInfo := by simp only [State.setVUpTo]
@[simp] theorem setVUpTo_config (x : Reg) (f : Nat → Byte) : (s.setVUpTo x f).config = s.config := by simp only [State.setVUpTo]
@[simp] theorem setVUpTo_rnd (x : Reg) (f : Nat → Byte) : (s.setVUpTo x f).rnd = s.rnd := by simp only [State.setVUpTo]
@[simp] theorem setVUpTo_draws (x : Reg) (f : Nat → Byte) : (s.setVUpTo x f).draws = s.draws := by simp only [State.setVUpTo]
@[simp] theorem setVUpTo_pending (x : Reg) (f : Nat → Byte) : (s.setVUpTo x f).pending = s.pending := by simp only [State.setVUpTo]
@[simp] theorem setVUpTo_outputs (x : Reg) (f : Nat → Byte) : (s.setVUpTo x f).outputs = s.outputs := by simp only [State.setVUpTo]

/-! `setRUpTo` -/

@[simp] theorem setRUpTo_v (x : Reg) (f : Nat → Byte) : (s.setRUpTo x f).v = s.v := by simp only [State.setRUpTo]
@[simp] theorem setRUpTo_i (x : Reg) (f : Nat → Byte) : (s.setRUpTo x f).i = s.i := by simp only [State.setRUpTo]
@[simp] theorem setRUpTo_pc (x : Reg) (f : Nat → Byte) : (s.setRUpTo x f).pc = s.pc := by simp only [State.setRUpTo]
@[simp] theorem setRUpTo_sp (x : Reg) (f : Nat → Byte) : (s.setRUpTo x f).sp = s.sp := by simp only [State.setRUpTo]
@[simp] theorem setRUpTo_dt (x : Reg) (f : Nat → Byte) : (s.setRUpTo x f).dt = s.dt := by simp only [State.setRUpTo]
@[simp] theorem setRUpTo_st (x : Reg) (f : Nat → Byte) : (s.setRUpTo x f).st = s.st := by simp only [State.setRUpTo]
@[simp] theorem setRUpTo_ir (x : Reg) (f : Nat → Byte) : (s.setRUpTo x f).ir = s.ir := by simp only [State.setRUpTo]
@[simp] theorem setRUpTo_stack (x : Reg) (f : Nat → Byte) : (s.setRUpTo x f).stack = s.stack := by simp only [State.setRUpTo]
@[simp] theorem setRUpTo_mem (x : Reg) (f : Nat → Byte) : (s.setRUpTo x f).mem = s.mem := by simp only [State.setRUpTo]
@[simp] theorem setRUpTo_r (x : Reg) (f : Nat → Byte) : (s.setRUpTo x f).r = Vector.ofFn fun k => if k.val ≤ x.val then f k.val else s.r[k.val] := rfl
@[simp] theorem setRUpTo_extendedMode (x : Reg) (f : Nat → Byte) : (s.setRUpTo x f).extendedMode = s.extendedMode := by simp only [State.setRUpTo]
@[simp] theorem setRUpTo_pixels (x : Reg) (f : Nat → Byte) : (s.setRUpTo x f).pixels = s.pixels := by simp only [State.setRUpTo]
@[simp] theorem setRUpTo_displayChanged (x : Reg) (f : Nat → Byte) : (s.setRUpTo x f).displayChanged = s.displayChanged := by simp only [State.setRUpTo]
@[simp] theorem setRUpTo_keyboard (x : Reg) (f : Nat → Byte) : (s.setRUpTo x f).keyboard = s.keyboard := by simp only [State.setRUpTo]
@[simp] theorem setRUpTo_exited (x : Reg) (f : Nat → Byte) : (s.setRUpTo x f).exited = s.exited := by simp only [State.setRUpTo]
@[simp] theorem setRUpTo_paused (x : Reg) (f : Nat → Byte) : (s.setRUpTo x f).paused = s.paused := by simp only [State.setRUpTo]
@[simp] theorem setRUpTo_faultCause (x : Reg) (f : Nat → Byte) : (s.setRUpTo x f).faultCause = s.faultCause := by simp only [State.setRUpTo]
@[simp] theorem setRUpTo_faultInfo (x : Reg) (f : Nat → Byte) : (s.setRUpTo x f).faultInfo = s.faultInfo := by simp only [State.setRUpTo]
@[simp] theorem setRUpTo_config (x : Reg) (f : Nat → Byte) : (s.setRUpTo x f).config = s.config := by simp only [State.setRUpTo]
@[simp] theorem setRUpTo_rnd (x : Reg) (f : Nat → Byte) : (s.setRUpTo x f).rnd = s.rnd := by simp only [State.setRUpTo]
@[simp] theorem setRUpTo_draws (x : Reg) (f : Nat → Byte) : (s.setRUpTo x f).draws = s.draws := by simp only [State.setRUpTo]
@[simp] theorem setRUpTo_pending (x : Reg) (f : Nat → Byte) : (s.setRUpTo x f).pending = s.pending := by simp only [State.setRUpTo]
@[simp] theorem setRUpTo_outputs (x : Reg) (f : Nat → Byte) : (s.setRUpTo x f).outputs = s.outputs := by simp only [State.setRUpTo]

/-! `setI` -/

@[simp] theorem setI_v (w : Word) : (s.setI w).v = s.v := rfl
@[simp] theorem setI_i (w : Word) : (s.setI w).i = w := rfl
@[simp] theorem setI_pc (w : Word) : (s.setI w).pc = s.pc := rfl
@[simp] theorem setI_sp (w : Word) : (s.setI w).sp = s.sp := rfl
@[simp] theorem setI_dt (w : Word) : (s.setI w).dt = s.dt := rfl
@[simp] theorem setI_st (w : Word) : (s.setI w).st = s.st := rfl
@[simp] theorem setI_ir (w : Word) : (s.setI w).ir = s.ir := rfl
@[simp] theorem setI_stack (w : Word) : (s.setI w).stack = s.stack := rfl
@[simp] theorem setI_mem (w : Word) : (s.setI w).mem = s.mem := rfl
@[simp] theorem setI_r (w : Word) : (s.setI w).r = s.r := rfl
@[simp] theorem setI_extendedMode (w : Word) : (s.setI w).extendedMode = s.extendedMode := rfl
@[simp] theorem setI_pixels (w : Word) : (s.setI w).pixels = s.pixels := rfl
@[simp] theorem setI_displayChanged (w : Word) : (s.setI w).displayChanged = s.displayChanged := rfl
@[simp] theorem setI_keyboard (w : Word) : (s.setI w).keyboard = s.keyboard := rfl
@[simp] theorem setI_exited (w : Word) : (s.setI w).exited = s.exited := rfl
@[simp] theorem setI_paused (w : Word) : (s.setI w).paused = s.paused := rfl
@[simp] theorem setI_faultCause (w : Word) : (s.setI w).faultCause = s.faultCause := rfl
@[simp] theorem setI_faultInfo (w : Word) : (s.setI w).faultInfo = s.faultInfo := rfl
@[simp] theorem setI_config (w : Word) : (s.setI w).config = s.config := rfl
@[simp] theorem setI_rnd (w : Word) : (s.setI w).rnd = s.rnd := rfl
@[simp] theorem setI_draws (w : Word) : (s.setI w).draws = s.draws := rfl
@[simp] theorem setI_pending (w : Word) : (s.setI w).pending = s.pending := rfl
@[simp] theorem setI_outputs (w : Word) : (s.setI w).outputs = s.outputs := rfl

/-! `setPc` -/

@[simp] theorem setPc_v (w : Word) : (s.setPc w).v = s.v := rfl
@[simp] theorem setPc_i (w : Word) : (s.setPc w).i = s.i := rfl
@[simp] theorem setPc_pc (w : Word) : (s.setPc w).pc = w := rfl
@[simp] theorem setPc_sp (w : Word) : (s.setPc w).sp = s.sp := rfl
@[simp] theorem setPc_dt (w : Word) : (s.setPc w).dt = s.dt := rfl
@[simp] theorem setPc_st (w : Word) : (s.setPc w).st = s.st := rfl
@[simp] theorem setPc_ir (w : Word) : (s.setPc w).ir = s.ir := rfl
@[simp] theorem setPc_stack (w : Word) : (s.setPc w).stack = s.stack := rfl
@[simp] theorem setPc_mem (w : Word) : (s.setPc w).mem = s.mem := rfl
@[simp] theorem setPc_r (w : Word) : (s.setPc w).r = s.r := rfl
@[simp] theorem setPc_extendedMode (w : Word) : (s.setPc w).extendedMode = s.extendedMode := rfl
@[simp] theorem setPc_pixels (w : Word) : (s.setPc w).pixels = s.pixels := rfl
@[simp] theorem setPc_displayChanged (w : Word) : (s.setPc w).displayChanged = s.displayChanged := rfl
@[simp] theorem setPc_keyboard (w : Word) : (s.setPc w).keyboard = s.keyboard := rfl
@[simp] theorem setPc_exited (w : Word) : (s.setPc w).exited = s.exited := rfl
@[simp] theorem setPc_paused (w : Word) : (s.setPc w).paused = s.paused := rfl
@[simp] theorem setPc_faultCause (w : Word) : (s.setPc w).faultCause = s.faultCause := rfl
@[simp] theorem setPc_faultInfo (w : Word) : (s.setPc w).faultInfo = s.faultInfo := rfl
@[simp] theorem setPc_config (w : Word) : (s.setPc w).config = s.config := rfl
@[simp] theorem setPc_rnd (w : Word) : (s.setPc w).rnd = s.rnd := rfl
@[simp] theorem setPc_draws (w : Word) : (s.setPc w).draws = s.draws := rfl
@[simp] theorem setPc_pending (w : Word) : (s.setPc w).pending = s.pending := rfl
@[simp] theorem setPc_outputs (w : Word) : (s.setPc w).outputs = s.outputs := rfl

/-! `setSp` -/

@[simp] theorem setSp_v (b : Byte) : (s.setSp b).v = s.v := rfl
@[simp] theorem setSp_i (b : Byte) : (s.setSp b).i = s.i := rfl
@[simp] theorem setSp_pc (b : Byte) : (s.setSp b).pc = s.pc := rfl
@[simp] theorem setSp_sp (b : Byte) : (s.setSp b).sp = b := rfl
@[simp] theorem setSp_dt (b : Byte) : (s.setSp b).dt = s.dt := rfl
@[simp] theorem setSp_st (b : Byte) : (s.setSp b).st = s.st := rfl
@[simp] theorem setSp_ir (b : Byte) : (s.setSp b).ir = s.ir := rfl
@[simp] theorem setSp_stack (b : Byte) : (s.setSp b).stack = s.stack := rfl
@[simp] theorem setSp_mem (b : Byte) : (s.setSp b).mem = s.mem := rfl
@[simp] theorem setSp_r (b : Byte) : (s.setSp b).r = s.r := rfl
@[simp] theorem setSp_extendedMode (b : Byte) : (s.setSp b).extendedMode = s.extendedMode := rfl
@[simp] theorem setSp_pixels (b : Byte) : (s.setSp b).pixels = s.pixels := rfl
@[simp] theorem setSp_displayChanged (b : Byte) : (s.setSp b).displayChanged = s.displayChanged := rfl
@[simp] theorem setSp_keyboard (b : Byte) : (s.setSp b).keyboard = s.keyboard := rfl
@[simp] theorem setSp_exited (b : Byte) : (s.setSp b).exited = s.exited := rfl
@[simp] theorem setSp_paused (b : Byte) : (s.setSp b).paused = s.paused := rfl
@[simp] theorem setSp_faultCause (b : Byte) : (s.setSp b).faultCause = s.faultCause := rfl
@[simp] theorem setSp_faultInfo (b : Byte) : (s.setSp b).faultInfo = s.faultInfo := rfl
@[simp] theorem setSp_config (b : Byte) : (s.setSp b).config = s.config := rfl
@[simp] theorem setSp_rnd (b : Byte) : (s.setSp b).rnd = s.rnd := rfl
@[simp] theorem setSp_draws (b : Byte) : (s.setSp b).draws = s.draws := rfl
@[simp] theorem setSp_pending (b : Byte) : (s.setSp b).pending = s.pending := rfl
@[simp] theorem setSp_outputs (b : Byte) : (s.setSp b).outputs = s.outputs := rfl

/-! `setStack` -/

@[simp] theorem setStack_v (k : Nat) (w : Word) : (s.setStack k w).v = s.v := rfl
@[simp] theorem setStack_i (k : Nat) (w : Word) : (s.setStack k w).i = s.i := rfl
@[simp] theorem setStack_pc (k : Nat) (w : Word) : (s.setStack k w).pc = s.pc := rfl
@[simp] theorem setStack_sp (k : Nat) (w : Word) : (s.setStack k w).sp = s.sp := rfl
@[simp] theorem setStack_dt (k : Nat) (w : Word) : (s.setStack k w).dt = s.dt := rfl
@[simp] theorem setStack_st (k : Nat) (w : Word) : (s.setStack k w).st = s.st := rfl
@[simp] theorem setStack_ir (k : Nat) (w : Word) : (s.setStack k w).ir = s.ir := rfl
@[simp] theorem setStack_stack (k : Nat) (w : Word) : (s.setStack k w).stack = s.stack.setIfInBounds k w := rfl
@[simp] theorem setStack_mem (k : Nat) (w : Word) : (s.setStack k w).mem = s.mem := rfl
@[simp] theorem setStack_r (k : Nat) (w : Word) : (s.setStack k w).r = s.r := rfl
@[simp] theorem setStack_extendedMode (k : Nat) (w : Word) : (s.setStack k w).extendedMode = s.extendedMode := rfl
@[simp] theorem setStack_pixels (k : Nat) (w : Word) : (s.setStack k w).pixels = s.pixels := rfl
@[simp] theorem setStack_displayChanged (k : Nat) (w : Word) : (s.setStack k w).displayChanged = s.displayChanged := rfl
@[simp] theorem setStack_keyboard (k : Nat) (w : Word) : (s.setStack k w).keyboard = s.keyboard := rfl
@[simp] theorem setStack_exited (k : Nat) (w : Word) : (s.setStack k w).exited = s.exited := rfl
@[simp] theorem setStack_paused (k : Nat) (w : Word) : (s.setStack k w).paused = s.paused := rfl
@[simp] theorem setStack_faultCause (k : Nat) (w : Word) : (s.setStack k w).faultCause = s.faultCause := rfl
@[simp] theorem setStack_faultInfo (k : Nat) (w : Word) : (s.setStack k w).faultInfo = s.faultInfo := rfl
@[simp] theorem setStack_config (k : Nat) (w : Word) : (s.setStack k w).config = s.config := rfl
@[simp] theorem setStack_rnd (k : Nat) (w : Word) : (s.setStack k w).rnd = s.rnd := rfl
@[simp] theorem setStack_draws (k : Nat) (w : Word) : (s.setStack k w).draws = s.draws := rfl
@[simp] theorem setStack_pending (k : Nat) (w : Word) : (s.setStack k w).pending = s.pending := rfl
@[simp] theorem setStack_outputs (k : Nat) (w : Word) : (s.setStack k w).outputs = s.outputs := rfl

/-! `setDt` -/

@[simp] theorem setDt_v (b : Byte) : (s.setDt b).v = s.v := rfl
@[simp] theorem setDt_i (b : Byte) : (s.setDt b).i = s.i := rfl
@[simp] theorem setDt_pc (b : Byte) : (s.setDt b).pc = s.pc := rfl
@[simp] theorem setDt_sp (b : Byte) : (s.setDt b).sp = s.sp := rfl
@[simp] theorem setDt_dt (b : Byte) : (s.setDt b).dt = b := rfl
@[simp] theorem setDt_st (b : Byte) : (s.setDt b).st = s.st := rfl
@[simp] theorem setDt_ir (b : Byte) : (s.setDt b).ir = s.ir := rfl
@[simp] theorem setDt_stack (b : Byte) : (s.setDt b).stack = s.stack := rfl
@[simp] theorem setDt_mem (b : Byte) : (s.setDt b).mem = s.mem := rfl
@[simp] theorem setDt_r (b : Byte) : (s.setDt b).r = s.r := rfl
@[simp] theorem setDt_extendedMode (b : Byte) : (s.setDt b).extendedMode = s.extendedMode := rfl
@[simp] theorem setDt_pixels (b : Byte) : (s.setDt b).pixels = s.pixels := rfl
@[simp] theorem setDt_displayChanged (b : Byte) : (s.setDt b).displayChanged = s.displayChanged := rfl
@[simp] theorem setDt_keyboard (b : Byte) : (s.setDt b).keyboard = s.keyboard := rfl
@[simp] theorem setDt_exited (b : Byte) : (s.setDt b).exited = s.exited := rfl
@[simp] theorem setDt_paused (b : Byte) : (s.setDt b).paused = s.paused := rfl
@[simp] theorem setDt_faultCause (b : Byte) : (s.setDt b).faultCause = s.faultCause := rfl
@[simp] theorem setDt_faultInfo (b : Byte) : (s.setDt b).faultInfo = s.faultInfo := rfl
@[simp] theorem setDt_config (b : Byte) : (s.setDt b).config = s.config := rfl
@[simp] theorem setDt_rnd (b : Byte) : (s.setDt b).rnd = s.rnd := rfl
@[simp] theorem setDt_draws (b : Byte) : (s.setDt b).draws = s.draws := rfl
@[simp] theorem setDt_pending (b : Byte) : (s.setDt b).pending = s.pending := rfl
@[simp] theorem setDt_outputs (b : Byte) : (s.setDt b).outputs = s.outputs := rfl

/-! `setSt` -/

@[simp] theorem setSt_v (b : Byte) : (s.setSt b).v = s.v := rfl
@[simp] theorem setSt_i (b : Byte) : (s.setSt b).i = s.i := rfl
@[simp] theorem setSt_pc (b : Byte) : (s.setSt b).pc = s.pc := rfl
@[simp] theorem setSt_sp (b : Byte) : (s.setSt b).sp = s.sp := rfl
@[simp] theorem setSt_dt (b : Byte) : (s.setSt b).dt = s.dt := rfl
@[simp] theorem setSt_st (b : Byte) : (s.setSt b).st = b := rfl
@[simp] theorem setSt_ir (b : Byte) : (s.setSt b).ir = s.ir := rfl
@[simp] theorem setSt_stack (b : Byte) : (s.setSt b).stack = s.stack := rfl
@[simp] theorem setSt_mem (b : Byte) : (s.setSt b).mem = s.mem := rfl
@[simp] theorem setSt_r (b : Byte) : (s.setSt b).r = s.r := rfl
@[simp] theorem setSt_extendedMode (b : Byte) : (s.setSt b).extendedMode = s.extendedMode := rfl
@[simp] theorem setSt_pixels (b : Byte) : (s.setSt b).pixels = s.pixels := rfl
@[simp] theorem setSt_displayChanged (b : Byte) : (s.setSt b).displayChanged = s.displayChanged := rfl
@[simp] theorem setSt_keyboard (b : Byte) : (s.setSt b).keyboard = s.keyboard := rfl
@[simp] theorem setSt_exited (b : Byte) : (s.setSt b).exited = s.exited := rfl
@[simp] theorem setSt_paused (b : Byte) : (s.setSt b).paused = s.paused := rfl
@[simp] theorem setSt_faultCause (b : Byte) : (s.setSt b).faultCause = s.faultCause := rfl
@[simp] theorem setSt_faultInfo (b : Byte) : (s.setSt b).faultInfo = s.faultInfo := rfl
@[simp] theorem setSt_config (b : Byte) : (s.setSt b).config = s.config := rfl
@[simp] theorem setSt_rnd (b : Byte) : (s.setSt b).rnd = s.rnd := rfl
@[simp] theorem setSt_draws (b : Byte) : (s.setSt b).draws = s.draws := rfl
@[simp] theorem setSt_pending (b : Byte) : (s.setSt b).pending = s.pending := rfl
@[simp] theorem setSt_outputs (b : Byte) : (s.setSt b).outputs = s.outputs := rfl

/-! `setPixels` -/

@[simp] theorem setPixels_v (p : List Nat) : (s.setPixels p).v = s.v := rfl
@[simp] theorem setPixels_i (p : List Nat) : (s.setPixels p).i = s.i := rfl
@[simp] theorem setPixels_pc (p : List Nat) : (s.setPixels p).pc = s.pc := rfl
@[simp] theorem setPixels_sp (p : List Nat) : (s.setPixels p).sp = s.sp := rfl
@[simp] theorem setPixels_dt (p : List Nat) : (s.setPixels p).dt = s.dt := rfl
@[simp] theorem setPixels_st (p : List Nat) : (s.setPixels p).st = s.st := rfl
@[simp] theorem setPixels_ir (p : List Nat) : (s.setPixels p).ir = s.ir := rfl
@[simp] theorem setPixels_stack (p : List Nat) : (s.setPixels p).stack = s.stack := rfl
@[simp] theorem setPixels_mem (p : List Nat) : (s.setPixels p).mem = s.mem := rfl
@[simp] theorem setPixels_r (p : List Nat) : (s.setPixels p).r = s.r := rfl
@[simp] theorem setPixels_extendedMode (p : List Nat) : (s.setPixels p).extendedMode = s.extendedMode := rfl
@[simp] theorem setPixels_pixels (p : List Nat) : (s.setPixels p).pixels = p := rfl
@[simp] theorem setPixels_displayChanged (p : List Nat) : (s.setPixels p).displayChanged = true := rfl
@[simp] theorem setPixels_keyboard (p : List Nat) : (s.setPixels p).keyboard = s.keyboard := rfl
@[simp] theorem setPixels_exited (p : List Nat) : (s.setPixels p).exited = s.exited := rfl
@[simp] theorem setPixels_paused (p : List Nat) : (s.setPixels p).paused = s.paused := rfl
@[simp] theorem setPixels_faultCause (p : List Nat) : (s.setPixels p).faultCause = s.faultCause := rfl
@[simp] theorem setPixels_faultInfo (p : List Nat) : (s.setPixels p).faultInfo = s.faultInfo := rfl
@[simp] theorem setPixels_config (p : List Nat) : (s.setPixels p).config = s.config := rfl
@[simp] theorem setPixels_rnd (p : List Nat) : (s.setPixels p).rnd = s.rnd := rfl
@[simp] theorem setPixels_draws (p : List Nat) : (s.setPixels p).draws = s.draws := rfl
@[simp] theorem setPixels_pending (p : List Nat) : (s.setPixels p).pending = s.pending := rfl
@[simp] theorem setPixels_outputs (p : List Nat) : (s.setPixels p).outputs = s.outputs := rfl

/-! `switchMode` -/

@[simp] theorem switchMode_v (e : Bool) : (s.switchMode e).v = s.v := rfl
@[simp] theorem switchMode_i (e : Bool) : (s.switchMode e).i = s.i := rfl
@[simp] theorem switchMode_pc (e : Bool) : (s.switchMode e).pc = s.pc := rfl
@[simp] theorem switchMode_sp (e : Bool) : (s.switchMode e).sp = s.sp := rfl
@[simp] theorem switchMode_dt (e : Bool) : (s.switchMode e).dt = s.dt := rfl
@[simp] theorem switchMode_st (e : Bool) : (s.switchMode e).st = s.st := rfl
@[simp] theorem switchMode_ir (e : Bool) : (s.switchMode e).ir = s.ir := rfl
@[simp] theorem switchMode_stack (e : Bool) : (s.switchMode e).stack = s.stack := rfl
@[simp] theorem switchMode_mem (e : Bool) : (s.switchMode e).mem = s.mem := rfl
@[simp] theorem switchMode_r (e : Bool) : (s.switchMode e).r = s.r := rfl
@[simp] theorem switchMode_extendedMode (e : Bool) : (s.switchMode e).extendedMode = e := rfl
@[simp] theorem switchMode_pixels (e : Bool) : (s.switchMode e).pixels = if s.config.modeSwitchClears then [] else s.pixels := rfl
@[simp] theorem switchMode_displayChanged (e : Bool) : (s.switchMode e).displayChanged = true := rfl
@[simp] theorem switchMode_keyboard (e : Bool) : (s.switchMode e).keyboard = s.keyboard := rfl
@[simp] theorem switchMode_exited (e : Bool) : (s.switchMode e).exited = s.exited := rfl
@[simp] theorem switchMode_paused (e : Bool) : (s.switchMode e).paused = s.paused := rfl
@[simp] theorem switchMode_faultCause (e : Bool) : (s.switchMode e).faultCause = s.faultCause := rfl
@[simp] theorem switchMode_faultInfo (e : Bool) : (s.switchMode e).faultInfo = s.faultInfo := rfl
@[simp] theorem switchMode_config (e : Bool) : (s.switchMode e).config = s.config := rfl
@[simp] theorem switchMode_rnd (e : Bool) : (s.switchMode e).rnd = s.rnd := rfl
@[simp] theorem switchMode_draws (e : Bool) : (s.switchMode e).draws = s.draws := rfl
@[simp] theorem switchMode_pending (e : Bool) : (s.switchMode e).pending = s.pending := rfl
@[simp] theorem switchMode_outputs (e : Bool) : (s.switchMode e).outputs = s.outputs := rfl

/-! `setKeyboard` -/

@[simp] theorem setKeyboard_v (keys : Vector Bool 16) : (s.setKeyboard keys).v = s.v := rfl
@[simp] theorem setKeyboard_i (keys : Vector Bool 16) : (s.setKeyboard keys).i = s.i := rfl
@[simp] theorem setKeyboard_pc (keys : Vector Bool 16) : (s.setKeyboard keys).pc = s.pc := rfl
@[simp] theorem setKeyboard_sp (keys : Vector Bool 16) : (s.setKeyboard keys).sp = s.sp := rfl
@[simp] theorem setKeyboard_dt (keys : Vector Bool 16) : (s.setKeyboard keys).dt = s.dt := rfl
@[simp] theorem setKeyboard_st (keys : Vector Bool 16) : (s.setKeyboard keys).st = s.st := rfl
@[simp] theorem setKeyboard_ir (keys : Vector Bool 16) : (s.setKeyboard keys).ir = s.ir := rfl
@[simp] theorem setKeyboard_stack (keys : Vector Bool 16) : (s.setKeyboard keys).stack = s.stack := rfl
@[simp] theorem setKeyboard_mem (keys : Vector Bool 16) : (s.setKeyboard keys).mem = s.mem := rfl
@[simp] theorem setKeyboard_r (keys : Vector Bool 16) : (s.setKeyboard keys).r = s.r := rfl
@[simp] theorem setKeyboard_extendedMode (keys : Vector Bool 16) : (s.setKeyboard keys).extendedMode = s.extendedMode := rfl
@[simp] theorem setKeyboard_pixels (keys : Vector Bool 16) : (s.setKeyboard keys).pixels = s.pixels := rfl
@[simp] theorem setKeyboard_displayChanged (keys : Vector Bool 16) : (s.setKeyboard keys).displayChanged = s.displayChanged := rfl
@[simp] theorem setKeyboard_keyboard (keys : Vector Bool 16) : (s.setKeyboard keys).keyboard = keys := rfl
@[simp] theorem setKeyboard_exited (keys : Vector Bool 16) : (s.setKeyboard keys).exited = s.exited := rfl
@[simp] theorem setKeyboard_paused (keys : Vector Bool 16) : (s.setKeyboard keys).paused = s.paused := rfl
@[simp] theorem setKeyboard_faultCause (keys : Vector Bool 16) : (s.setKeyboard keys).faultCause = s.faultCause := rfl
@[simp] theorem setKeyboard_faultInfo (keys : Vector Bool 16) : (s.setKeyboard keys).faultInfo = s.faultInfo := rfl
@[simp] theorem setKeyboard_config (keys : Vector Bool 16) : (s.setKeyboard keys).config = s.config := rfl
@[simp] theorem setKeyboard_rnd (keys : Vector Bool 16) : (s.setKeyboard keys).rnd = s.rnd := rfl
@[simp] theorem setKeyboard_draws (keys : Vector Bool 16) : (s.setKeyboard keys).draws = s.draws := rfl
@[simp] theorem setKeyboard_pending (keys : Vector Bool 16) : (s.setKeyboard keys).pending = s.pending := rfl
@[simp] theorem setKeyboard_outputs (keys : Vector Bool 16) : (s.setKeyboard keys).outputs = s.outputs := rfl

/-! `setExited` -/

@[simp] theorem setExited_v : (s.setExited).v = s.v := rfl
@[simp] theorem setExited_i : (s.setExited).i = s.i := rfl
@[simp] theorem setExited_pc : (s.setExited).pc = s.pc := rfl
@[simp] theorem setExited_sp : (s.setExited).sp = s.sp := rfl
@[simp] theorem setExited_dt : (s.setExited).dt = s.dt := rfl
@[simp] theorem setExited_st : (s.setExited).st = s.st := rfl
@[simp] theorem setExited_ir : (s.setExited).ir = s.ir := rfl
@[simp] theorem setExited_stack : (s.setExited).stack = s.stack := rfl
@[simp] theorem setExited_mem : (s.setExited).mem = s.mem := rfl
@[simp] theorem setExited_r : (s.setExited).r = s.r := rfl
@[simp] theorem setExited_extendedMode : (s.setExited).extendedMode = s.extendedMode := rfl
@[simp] theorem setExited_pixels : (s.setExited).pixels = s.pixels := rfl
@[simp] theorem setExited_displayChanged : (s.setExited).displayChanged = s.displayChanged := rfl
@[simp] theorem setExited_keyboard : (s.setExited).keyboard = s.keyboard := rfl
@[simp] theorem setExited_exited : (s.setExited).exited = true := rfl
@[simp] theorem setExited_paused : (s.setExited).paused = s.paused := rfl
@[simp] theorem setExited_faultCause : (s.setExited).faultCause = s.faultCause := rfl
@[simp] theorem setExited_faultInfo : (s.setExited).faultInfo = s.faultInfo := rfl
@[simp] theorem setExited_config : (s.setExited).config = s.config := rfl
@[simp] theorem setExited_rnd : (s.setExited).rnd = s.rnd := rfl
@[simp] theorem setExited_draws : (s.setExited).draws = s.draws := rfl
@[simp] theorem setExited_pending : (s.setExited).pending = s.pending := rfl
@[simp] theorem setExited_outputs : (s.setExited).outputs = s.outputs := rfl

/-! `writeBytes` -/

@[simp] theorem writeBytes_v (a : Nat) (bs : List Byte) : (s.writeBytes a bs).v = s.v := rfl
@[simp] theorem writeBytes_i (a : Nat) (bs : List Byte) : (s.writeBytes a bs).i = s.i := rfl
@[simp] theorem writeBytes_pc (a : Nat) (bs : List Byte) : (s.writeBytes a bs).pc = s.pc := rfl
@[simp] theorem writeBytes_sp (a : Nat) (bs : List Byte) : (s.writeBytes a bs).sp = s.sp := rfl
@[simp] theorem writeBytes_dt (a : Nat) (bs : List Byte) : (s.writeBytes a bs).dt = s.dt := rfl
@[simp] theorem writeBytes_st (a : Nat) (bs : List Byte) : (s.writeBytes a bs).st = s.st := rfl
@[simp] theorem writeBytes_ir (a : Nat) (bs : List Byte) : (s.writeBytes a bs).ir = s.ir := rfl
@[simp] theorem writeBytes_stack (a : Nat) (bs : List Byte) : (s.writeBytes a bs).stack = s.stack := rfl
@[simp] theorem writeBytes_mem (a : Nat) (bs : List Byte) : (s.writeBytes a bs).mem = Memory.writeBytes s.config s.mem a bs := rfl
@[simp] theorem writeBytes_r (a : Nat) (bs : List Byte) : (s.writeBytes a bs).r = s.r := rfl
@[simp] theorem writeBytes_extendedMode (a : Nat) (bs : List Byte) : (s.writeBytes a bs).extendedMode = s.extendedMode := rfl
@[simp] theorem writeBytes_pixels (a : Nat) (bs : List Byte) : (s.writeBytes a bs).pixels = s.pixels := rfl
@[simp] theorem writeBytes_displayChanged (a : Nat) (bs : List Byte) : (s.writeBytes a bs).displayChanged = s.displayChanged := rfl
@[simp] theorem writeBytes_keyboard (a : Nat) (bs : List Byte) : (s.writeBytes a bs).keyboard = s.keyboard := rfl
@[simp] theorem writeBytes_exited (a : Nat) (bs : List Byte) : (s.writeBytes a bs).exited = s.exited := rfl
@[simp] theorem writeBytes_paused (a : Nat) (bs : List Byte) : (s.writeBytes a bs).paused = s.paused := rfl
@[simp] theorem writeBytes_faultCause (a : Nat) (bs : List Byte) : (s.writeBytes a bs).faultCause = s.faultCause := rfl
@[simp] theorem writeBytes_faultInfo (a : Nat) (bs : List Byte) : (s.writeBytes a bs).faultInfo = s.faultInfo := rfl
@[simp] theorem writeBytes_config (a : Nat) (bs : List Byte) : (s.writeBytes a bs).config = s.config := rfl
@[simp] theorem writeBytes_rnd (a : Nat) (bs : List Byte) : (s.writeBytes a bs).rnd = s.rnd := rfl
@[simp] theorem writeBytes_draws (a : Nat) (bs : List Byte) : (s.writeBytes a bs).draws = s.draws := rfl
@[simp] theorem writeBytes_pending (a : Nat) (bs : List Byte) : (s.writeBytes a bs).pending = s.pending := rfl
@[simp] theorem writeBytes_outputs (a : Nat) (bs : List Byte) : (s.writeBytes a bs).outputs = s.outputs := rfl

/-! `emit` -/

@[simp] theorem emit_v (o : Output) : (s.emit o).v = s.v := rfl
@[simp] theorem emit_i (o : Output) : (s.emit o).i = s.i := rfl
@[simp] theorem emit_pc (o : Output) : (s.emit o).pc = s.pc := rfl
@[simp] theorem emit_sp (o : Output) : (s.emit o).sp = s.sp := rfl
@[simp] theorem emit_dt (o : Output) : (s.emit o).dt = s.dt := rfl
@[simp] theorem emit_st (o : Output) : (s.emit o).st = s.st := rfl
@[simp] theorem emit_ir (o : Output) : (s.emit o).ir = s.ir := rfl
@[simp] theorem emit_stack (o : Output) : (s.emit o).stack = s.stack := rfl
@[simp] theorem emit_mem (o : Output) : (s.emit o).mem = s.mem := rfl
@[simp] theorem emit_r (o : Output) : (s.emit o).r = s.r := rfl
@[simp] theorem emit_extendedMode (o : Output) : (s.emit o).extendedMode = s.extendedMode := rfl
@[simp] theorem emit_pixels (o : Output) : (s.emit o).pixels = s.pixels := rfl
@[simp] theorem emit_displayChanged (o : Output) : (s.emit o).displayChanged = s.displayChanged := rfl
@[simp] theorem emit_keyboard (o : Output) : (s.emit o).keyboard = s.keyboard := rfl
@[simp] theorem emit_exited (o : Output) : (s.emit o).exited = s.exited := rfl
@[simp] theorem emit_paused (o : Output) : (s.emit o).paused = s.paused := rfl
@[simp] theorem emit_faultCause (o : Output) : (s.emit o).faultCause = s.faultCause := rfl
@[simp] theorem emit_faultInfo (o : Output) : (s.emit o).faultInfo = s.faultInfo := rfl
@[simp] theorem emit_config (o : Output) : (s.emit o).config = s.config := rfl
@[simp] theorem emit_rnd (o : Output) : (s.emit o).rnd = s.rnd := rfl
@[simp] theorem emit_draws (o : Output) : (s.emit o).draws = s.draws := rfl
@[simp] theorem emit_pending (o : Output) : (s.emit o).pending = s.pending := rfl
@[simp] theorem emit_outputs (o : Output) : (s.emit o).outputs = o :: s.outputs := rfl

/-! `raise` -/

@[simp] theorem raise_v (c : FaultCause) (n : FaultInfo) : (s.raise c n).v = s.v := rfl
@[simp] theorem raise_i (c : FaultCause) (n : FaultInfo) : (s.raise c n).i = s.i := rfl
@[simp] theorem raise_pc (c : FaultCause) (n : FaultInfo) : (s.raise c n).pc = s.pc := rfl
@[simp] theorem raise_sp (c : FaultCause) (n : FaultInfo) : (s.raise c n).sp = s.sp := rfl
@[simp] theorem raise_dt (c : FaultCause) (n : FaultInfo) : (s.raise c n).dt = s.dt := rfl
@[simp] theorem raise_st (c : FaultCause) (n : FaultInfo) : (s.raise c n).st = s.st := rfl
@[simp] theorem raise_ir (c : FaultCause) (n : FaultInfo) : (s.raise c n).ir = s.ir := rfl
@[simp] theorem raise_stack (c : FaultCause) (n : FaultInfo) : (s.raise c n).stack = s.stack := rfl
@[simp] theorem raise_mem (c : FaultCause) (n : FaultInfo) : (s.raise c n).mem = s.mem := rfl
@[simp] theorem raise_r (c : FaultCause) (n : FaultInfo) : (s.raise c n).r = s.r := rfl
@[simp] theorem raise_extendedMode (c : FaultCause) (n : FaultInfo) : (s.raise c n).extendedMode = s.extendedMode := rfl
@[simp] theorem raise_pixels (c : FaultCause) (n : FaultInfo) : (s.raise c n).pixels = s.pixels := rfl
@[simp] theorem raise_displayChanged (c : FaultCause) (n : FaultInfo) : (s.raise c n).displayChanged = s.displayChanged := rfl
@[simp] theorem raise_keyboard (c : FaultCause) (n : FaultInfo) : (s.raise c n).keyboard = s.keyboard := rfl
@[simp] theorem raise_exited (c : FaultCause) (n : FaultInfo) : (s.raise c n).exited = s.exited := rfl
@[simp] theorem raise_paused (c : FaultCause) (n : FaultInfo) : (s.raise c n).paused = s.paused := rfl
@[simp] theorem raise_faultCause (c : FaultCause) (n : FaultInfo) : (s.raise c n).faultCause = some c := rfl
@[simp] theorem raise_faultInfo (c : FaultCause) (n : FaultInfo) : (s.raise c n).faultInfo = n := rfl
@[simp] theorem raise_config (c : FaultCause) (n : FaultInfo) : (s.raise c n).config = s.config := rfl
@[simp] theorem raise_rnd (c : FaultCause) (n : FaultInfo) : (s.raise c n).rnd = s.rnd := rfl
@[simp] theorem raise_draws (c : FaultCause) (n : FaultInfo) : (s.raise c n).draws = s.draws := rfl
@[simp] theorem raise_pending (c : FaultCause) (n : FaultInfo) : (s.raise c n).pending = s.pending := rfl
@[simp] theorem raise_outputs (c : FaultCause) (n : FaultInfo) : (s.raise c n).outputs = .fault c n :: s.outputs := rfl

/-! `raiseHere` -/

/-- Raising from a handler is raising with the handler's information (R311). -/
@[simp] theorem raiseHere_eq (c : FaultCause) : s.raiseHere c = s.raise c ⟨s.pc - 2, s.ir⟩ := rfl

end Sys2Proof.Machine.State
end

