-- ==== Sys2Proof/Laws/Ops.lean ====
section
/-! SUPPORT. The spec lemmas of the shared operations: what each does to registers, memory, pixels and events. Later proofs cite
them and unfold none of the operations. -/
namespace Sys2Proof.Machine

namespace State

variable (s : State)

/-! ### Registers -/

/-- Writing a general register gives it the byte and leaves the others alone (R12). -/
@[simp] theorem getV_setV (x : Reg) (b : Byte) (y : Reg) :
    (s.setV x b).getV y = if y = x then b else s.getV y := by
  simp [setV, getV, Vector.getElem_set, Fin.ext_iff, eq_comm]

/-- The registers after a load of V0..Vx. -/
@[simp] theorem getV_setVUpTo (x : Reg) (f : Nat → Byte) (y : Reg) :
    (s.setVUpTo x f).getV y = if y ≤ x then f y.val else s.getV y := by
  simp [setVUpTo, getV]

/-- Two files of general registers that read the same are the same. -/
theorem v_ext {s t : State} (h : ∀ x, t.getV x = s.getV x) : t.v = s.v := by
  apply Vector.ext
  intro k hk
  exact h ⟨k, hk⟩

theorem getV_of_v_eq {s t : State} (h : t.v = s.v) (x : Reg) : t.getV x = s.getV x := by simp [getV, h]

@[simp] theorem getV_setI (w : Word) (x : Reg) : (s.setI w).getV x = s.getV x := rfl
@[simp] theorem getV_setPc (w : Word) (x : Reg) : (s.setPc w).getV x = s.getV x := rfl
@[simp] theorem getV_setPixels (p : List Nat) (x : Reg) : (s.setPixels p).getV x = s.getV x := rfl
@[simp] theorem getV_writeBytes (a : Nat) (bs : List Byte) (x : Reg) : (s.writeBytes a bs).getV x = s.getV x := rfl
@[simp] theorem getV_raise (c : FaultCause) (n : FaultInfo) (x : Reg) : (s.raise c n).getV x = s.getV x := rfl

/-! ### One byte of memory -/

theorem readByte_eq_of_mem {s t : State} (hc : t.config = s.config) (hm : t.mem = s.mem) (a : Nat) :
    t.readByte a = s.readByte a := by simp [readByte, hc, hm]

@[simp] theorem readByte_setV (x : Reg) (b : Byte) (a : Nat) : (s.setV x b).readByte a = s.readByte a := rfl
@[simp] theorem readByte_setVUpTo (x : Reg) (f : Nat → Byte) (a : Nat) :
    (s.setVUpTo x f).readByte a = s.readByte a := by simp only [readByte, setVUpTo_config, setVUpTo_mem]
@[simp] theorem readByte_setRUpTo (x : Reg) (f : Nat → Byte) (a : Nat) :
    (s.setRUpTo x f).readByte a = s.readByte a := by simp only [readByte, setRUpTo_config, setRUpTo_mem]
@[simp] theorem readByte_setI (w : Word) (a : Nat) : (s.setI w).readByte a = s.readByte a := rfl
@[simp] theorem readByte_setPc (w : Word) (a : Nat) : (s.setPc w).readByte a = s.readByte a := rfl
@[simp] theorem readByte_setSp (b : Byte) (a : Nat) : (s.setSp b).readByte a = s.readByte a := rfl
@[simp] theorem readByte_setStack (k : Nat) (w : Word) (a : Nat) : (s.setStack k w).readByte a = s.readByte a := rfl
@[simp] theorem readByte_setDt (b : Byte) (a : Nat) : (s.setDt b).readByte a = s.readByte a := rfl
@[simp] theorem readByte_setSt (b : Byte) (a : Nat) : (s.setSt b).readByte a = s.readByte a := rfl
@[simp] theorem readByte_setPixels (p : List Nat) (a : Nat) : (s.setPixels p).readByte a = s.readByte a := rfl
@[simp] theorem readByte_switchMode (e : Bool) (a : Nat) : (s.switchMode e).readByte a = s.readByte a := rfl
@[simp] theorem readByte_setKeyboard (keys : Vector Bool 16) (a : Nat) : (s.setKeyboard keys).readByte a = s.readByte a := rfl
@[simp] theorem readByte_setExited (a : Nat) : s.setExited.readByte a = s.readByte a := rfl
@[simp] theorem readByte_emit (o : Output) (a : Nat) : (s.emit o).readByte a = s.readByte a := rfl
@[simp] theorem readByte_raise (c : FaultCause) (n : FaultInfo) (a : Nat) : (s.raise c n).readByte a = s.readByte a := rfl

/-- Every byte after a store: those stored read as stored, every other as before (R84, R86). -/
theorem readByte_writeBytes {s : State} (hm : Memory.wf s.config s.mem = true) (a : Nat) (bs : List Byte) (k : Nat) :
    (s.writeBytes a bs).readByte k = if h : a ≤ k ∧ k < a + bs.length then bs[k - a] else s.readByte k :=
  Memory.read_writeBytes s.config (Memory.sorted_of_wf s.config hm) a bs k

/-- A store leaves the bytes outside it alone. -/
theorem readByte_writeBytes_outside (a : Nat) (bs : List Byte) {k : Nat} (h : k < a ∨ a + bs.length ≤ k) :
    (s.writeBytes a bs).readByte k = s.readByte k :=
  Memory.read_writeBytes_outside s.config s.mem a bs h

/-! ### The shared operations of the meanings -/

/-- A skip moves only `PC` (R270). -/
theorem skipIf_eq (c : Bool) : s.skipIf c = s.setPc (if c then s.pc + 2 else s.pc) := by
  cases c <;> rfl

/-- The move of `I` after a load or store (R245). -/
theorem afterLoadStore_eq (x : Reg) : s.afterLoadStore x =
    s.setI (if s.config.loadStoreI = .plusXPlus1 then s.i + BitVec.ofNat 16 (x.val + 1) else s.i) := by
  unfold afterLoadStore
  cases s.config.loadStoreI <;> rfl

/-- The write step of R150 changes only the general registers. -/
theorem writeFlagged_eq (x : Reg) (f : Flagged) : s.writeFlagged x f = { s with v := (s.writeFlagged x f).v } := by
  unfold writeFlagged
  split <;> rfl

/-- The registers after the write step of R150: VF ends as the flag, or as the result when X = F and `FLAG_LAST` is false. -/
theorem getV_writeFlagged (x : Reg) (f : Flagged) (r : Reg) : (s.writeFlagged x f).getV r =
    if r = vF then (if x = vF ∧ s.config.flagLast = false then f.result else flagByte f.flag)
    else if r = x then f.result else s.getV r := by
  unfold writeFlagged
  cases s.config.flagLast <;> by_cases h : r = vF <;> by_cases h' : x = vF <;> simp_all
  intro h
  exact absurd h.symm h'

/-- The write step of the logic operations changes only the general registers. -/
theorem writeLogic_eq (x : Reg) (b : Byte) : s.writeLogic x b = { s with v := (s.writeLogic x b).v } := by
  unfold writeLogic
  split <;> rfl

/-- The registers after a logic operation (R154). -/
theorem getV_writeLogic (x : Reg) (b : Byte) (r : Reg) : (s.writeLogic x b).getV r =
    if s.config.logicVfReset = true ∧ r = vF then 0 else if r = x then b else s.getV r := by
  unfold writeLogic
  cases s.config.logicVfReset <;> simp

/-- The current picture is one of the two sizes (R15). -/
theorem isPicture : Pixels.IsPicture s.width s.height := by
  unfold width height
  cases s.extendedMode <;> simp [Pixels.IsPicture]

theorem width_pos : 0 < s.width := by unfold width; split <;> omega

theorem height_pos : 0 < s.height := by unfold height; split <;> omega

theorem width_mul_height_le : s.width * s.height ≤ 8192 := by unfold width height; split <;> omega

/-- A pixel of the picture has an entry of the picture. -/
theorem index_lt {w h x y : Nat} (hx : x < w) (hy : y < h) : y * w + x < w * h := by
  calc y * w + x < y * w + w := by omega
    _ = (y + 1) * w := by ring
    _ ≤ h * w := Nat.mul_le_mul_right _ hy
    _ = w * h := Nat.mul_comm _ _

/-- Drawing a sprite changes the pixels, `DisplayChanged` and the general registers only. -/
theorem drawSprite_eq (xs ys : Byte) (rows cols : Nat) (rowbits : Nat → Nat) :
    s.drawSprite xs ys rows cols rowbits =
      { s with
        v := (s.drawSprite xs ys rows cols rowbits).v
        pixels := (Pixels.xorPoints s.pixels false
          (Pixels.spritePoints s.width s.height xs.toNat ys.toNat rows cols rowbits)).1
        displayChanged := true } := rfl

/-- The registers after drawing: VF is the collision, the others stay (R183). -/
theorem getV_drawSprite (xs ys : Byte) (rows cols : Nat) (rowbits : Nat → Nat) (r : Reg) :
    (s.drawSprite xs ys rows cols rowbits).getV r =
      if r = vF then (if (Pixels.xorPoints s.pixels false
        (Pixels.spritePoints s.width s.height xs.toNat ys.toNat rows cols rowbits)).2 then 1 else 0)
      else s.getV r := by
  simp [drawSprite]

/-- The key that `Keyboard` holds for an index below 16 (R220). -/
theorem keyHeld_of_lt {k : Byte} (h : k.toNat < 16) : s.keyHeld k = s.keyboard[k.toNat] := by
  simp [keyHeld, List.getD_eq_getElem?_getD, h]

/-- No key is held, or the lowest held key is found (R222). -/
theorem lowestKey_cases :
    (s.lowestKey = none ∧ ∀ k (h : k < 16), s.keyboard[k] = false) ∨
    (∃ k, ∃ h : k < 16, s.lowestKey = some k ∧ s.keyboard[k] = true ∧
      ∀ j (hj : j < k), s.keyboard[j]'(by omega) = false) := by
  cases h : s.lowestKey with
  | none =>
    left
    refine ⟨rfl, fun k hk => ?_⟩
    simp only [lowestKey, List.findIdx?_eq_none_iff, decide_eq_false_iff_not, Bool.not_eq_true] at h
    exact h _ (by simp)
  | some k =>
    right
    simp only [lowestKey, List.findIdx?_eq_some_iff_getElem] at h
    obtain ⟨hk, hb, hlt⟩ := h
    simp only [Vector.length_toList] at hk
    refine ⟨k, hk, rfl, by simpa using hb, fun j hj => ?_⟩
    simpa using hlt j hj

/-! ### The timers and the engine state -/

/-- Everything a timer step does (R340, R341). -/
theorem timerStep_eq : s.timerStep =
    { s with
      dt := if s.dt = 0 then 0 else s.dt - 1
      st := if s.st = 0 then 0 else s.st - 1
      outputs := if s.st = 1 then .beep Config.beepFreqHz Config.beepDurationMs :: s.outputs else s.outputs } := by
  cases s
  rename_i v i pc sp dt st ir stack mem r em px dc kb ex pa fc fi cf rn dr pe ou
  by_cases hd : dt = 0 <;> by_cases h0 : st = 0 <;> by_cases h1 : st = 1 <;>
    simp_all [timerStep, setDt, setSt, emit]

@[simp] theorem timerStep_v : s.timerStep.v = s.v := by rw [timerStep_eq]
@[simp] theorem timerStep_i : s.timerStep.i = s.i := by rw [timerStep_eq]
@[simp] theorem timerStep_pc : s.timerStep.pc = s.pc := by rw [timerStep_eq]
@[simp] theorem timerStep_sp : s.timerStep.sp = s.sp := by rw [timerStep_eq]
@[simp] theorem timerStep_ir : s.timerStep.ir = s.ir := by rw [timerStep_eq]
@[simp] theorem timerStep_stack : s.timerStep.stack = s.stack := by rw [timerStep_eq]
@[simp] theorem timerStep_mem : s.timerStep.mem = s.mem := by rw [timerStep_eq]
@[simp] theorem timerStep_r : s.timerStep.r = s.r := by rw [timerStep_eq]
@[simp] theorem timerStep_extendedMode : s.timerStep.extendedMode = s.extendedMode := by rw [timerStep_eq]
@[simp] theorem timerStep_pixels : s.timerStep.pixels = s.pixels := by rw [timerStep_eq]
@[simp] theorem timerStep_displayChanged : s.timerStep.displayChanged = s.displayChanged := by rw [timerStep_eq]
@[simp] theorem timerStep_keyboard : s.timerStep.keyboard = s.keyboard := by rw [timerStep_eq]
@[simp] theorem timerStep_exited : s.timerStep.exited = s.exited := by rw [timerStep_eq]
@[simp] theorem timerStep_paused : s.timerStep.paused = s.paused := by rw [timerStep_eq]
@[simp] theorem timerStep_faultCause : s.timerStep.faultCause = s.faultCause := by rw [timerStep_eq]
@[simp] theorem timerStep_faultInfo : s.timerStep.faultInfo = s.faultInfo := by rw [timerStep_eq]
@[simp] theorem timerStep_config : s.timerStep.config = s.config := by rw [timerStep_eq]
@[simp] theorem timerStep_rnd : s.timerStep.rnd = s.rnd := by rw [timerStep_eq]
@[simp] theorem timerStep_draws : s.timerStep.draws = s.draws := by rw [timerStep_eq]
@[simp] theorem timerStep_pending : s.timerStep.pending = s.pending := by rw [timerStep_eq]
theorem timerStep_dt : s.timerStep.dt = if s.dt = 0 then 0 else s.dt - 1 := by rw [timerStep_eq]
theorem timerStep_st : s.timerStep.st = if s.st = 0 then 0 else s.st - 1 := by rw [timerStep_eq]
theorem timerStep_outputs : s.timerStep.outputs =
    if s.st = 1 then .beep Config.beepFreqHz Config.beepDurationMs :: s.outputs else s.outputs := by rw [timerStep_eq]
@[simp] theorem timerStep_readByte (a : Nat) : s.timerStep.readByte a = s.readByte a :=
  readByte_eq_of_mem (timerStep_config s) (timerStep_mem s) a

theorem engine_faulted_iff : s.engine = .faulted ↔ s.faultCause.isSome = true := by
  unfold engine
  cases s.faultCause.isSome <;> cases s.exited <;> cases s.paused <;> simp

/-- The engine is live iff it is Running or Paused (R54, R338). -/
theorem live_iff : s.live = true ↔ s.faultCause = none ∧ s.exited = false := by
  simp [live]

/-- The display push changes only `DisplayChanged` and the events (R115). -/
theorem pushDisplay_eq : s.pushDisplay =
    { s with
      displayChanged := false
      outputs := if s.displayChanged then .updateDisplay s.extendedMode s.pixels :: s.outputs else s.outputs } := by
  cases s
  rename_i dc _ _ _ _ _ _ _ _ _ _
  cases dc <;> rfl

end State

/-- A set bit of a byte, by column. -/
theorem testBit_byte (b : Byte) (c : Nat) : b.toNat.testBit (8 - 1 - c) = b.getLsbD (7 - c) := rfl

/-- The bits of an 8-column sprite row (R183). -/
theorem spriteRow8_bit (s : State) (r c : Nat) : (s.spriteRow8 r).testBit (8 - 1 - c) = s.spriteBit8 r c := rfl

/-- The bits of a 16-column sprite row: the left byte first (R184). -/
theorem spriteRow16_bit (s : State) (r : Nat) {c : Nat} (hc : c < 16) :
    (s.spriteRow16 r).testBit (16 - 1 - c) = s.spriteBit16 r c := by
  unfold State.spriteRow16 State.spriteBit16
  rw [BitVec.testBit_toNat, BitVec.getLsbD_append]
  by_cases h : c < 8
  · rw [if_pos h, if_neg (by omega)]
    congr 1
    omega
  · rw [if_neg h, if_pos (by omega)]

end Sys2Proof.Machine
end

