-- ==== Sys2Proof/Laws/PerInstr.lean ====
section
/-! SUPPORT. The families of statements made instruction by instruction. -/

namespace Sys2Proof.Laws.RowHit

/-- The encoded word of the instruction is selected by a row of the table whose match value is the instruction's (R120). -/
def Statement (i : Instr) : Prop :=
  ∃ r ∈ table, r.selects (encode i) = true ∧ r.pattern.toNat = i.pattern

/-- A row of the table selects a word once the masked number is the row's match value. -/
theorem of_row {i : Instr} (k : Nat) (hk : k < table.length)
    (hm : (encode i &&& table[k].mask).toNat = table[k].pattern.toNat) (hp : table[k].pattern.toNat = i.pattern) :
    Statement i :=
  ⟨table[k], List.getElem_mem hk, by rw [Row.selects, beq_word]; exact decide_eq_true hm, hp⟩

theorem cls : Statement .cls :=
  of_row 0 (by decide) (by decide) rfl

theorem ret : Statement .ret :=
  of_row 1 (by decide) (by decide) rfl

theorem scd (n : Nibble) : Statement (.scd n) :=
  of_row 2 (by decide) (by
    show (encode (.scd n) &&& 0xFFF0#16).toNat = 0x00C0
    rw [toNat_and_FFF0, encode_toNat]
    simp only [Instr.pattern, Instr.operands, Operands.bits]
    omega) rfl

theorem scr : Statement .scr :=
  of_row 3 (by decide) (by decide) rfl

theorem scl : Statement .scl :=
  of_row 4 (by decide) (by decide) rfl

theorem exit : Statement .exit :=
  of_row 5 (by decide) (by decide) rfl

theorem low : Statement .low :=
  of_row 6 (by decide) (by decide) rfl

theorem high : Statement .high :=
  of_row 7 (by decide) (by decide) rfl

theorem jp (nnn : Addr) : Statement (.jp nnn) :=
  of_row 8 (by decide) (by
    show (encode (.jp nnn) &&& 0xF000#16).toNat = 0x1000
    rw [toNat_and_F000, encode_toNat]
    simp only [Instr.pattern, Instr.operands, Operands.bits]
    omega) rfl

theorem call (nnn : Addr) : Statement (.call nnn) :=
  of_row 9 (by decide) (by
    show (encode (.call nnn) &&& 0xF000#16).toNat = 0x2000
    rw [toNat_and_F000, encode_toNat]
    simp only [Instr.pattern, Instr.operands, Operands.bits]
    omega) rfl

theorem seVxKk (x : Reg) (kk : Byte) : Statement (.seVxKk x kk) :=
  of_row 10 (by decide) (by
    show (encode (.seVxKk x kk) &&& 0xF000#16).toNat = 0x3000
    rw [toNat_and_F000, encode_toNat]
    simp only [Instr.pattern, Instr.operands, Operands.bits]
    omega) rfl

theorem sneVxKk (x : Reg) (kk : Byte) : Statement (.sneVxKk x kk) :=
  of_row 11 (by decide) (by
    show (encode (.sneVxKk x kk) &&& 0xF000#16).toNat = 0x4000
    rw [toNat_and_F000, encode_toNat]
    simp only [Instr.pattern, Instr.operands, Operands.bits]
    omega) rfl

theorem seVxVy (x : Reg) (y : Reg) : Statement (.seVxVy x y) :=
  of_row 12 (by decide) (by
    show (encode (.seVxVy x y) &&& 0xF00F#16).toNat = 0x5000
    rw [toNat_and_F00F, encode_toNat]
    simp only [Instr.pattern, Instr.operands, Operands.bits]
    omega) rfl

theorem ldVxKk (x : Reg) (kk : Byte) : Statement (.ldVxKk x kk) :=
  of_row 13 (by decide) (by
    show (encode (.ldVxKk x kk) &&& 0xF000#16).toNat = 0x6000
    rw [toNat_and_F000, encode_toNat]
    simp only [Instr.pattern, Instr.operands, Operands.bits]
    omega) rfl

theorem addVxKk (x : Reg) (kk : Byte) : Statement (.addVxKk x kk) :=
  of_row 14 (by decide) (by
    show (encode (.addVxKk x kk) &&& 0xF000#16).toNat = 0x7000
    rw [toNat_and_F000, encode_toNat]
    simp only [Instr.pattern, Instr.operands, Operands.bits]
    omega) rfl

theorem ldVxVy (x : Reg) (y : Reg) : Statement (.ldVxVy x y) :=
  of_row 15 (by decide) (by
    show (encode (.ldVxVy x y) &&& 0xF00F#16).toNat = 0x8000
    rw [toNat_and_F00F, encode_toNat]
    simp only [Instr.pattern, Instr.operands, Operands.bits]
    omega) rfl

theorem orVxVy (x : Reg) (y : Reg) : Statement (.orVxVy x y) :=
  of_row 16 (by decide) (by
    show (encode (.orVxVy x y) &&& 0xF00F#16).toNat = 0x8001
    rw [toNat_and_F00F, encode_toNat]
    simp only [Instr.pattern, Instr.operands, Operands.bits]
    omega) rfl

theorem andVxVy (x : Reg) (y : Reg) : Statement (.andVxVy x y) :=
  of_row 17 (by decide) (by
    show (encode (.andVxVy x y) &&& 0xF00F#16).toNat = 0x8002
    rw [toNat_and_F00F, encode_toNat]
    simp only [Instr.pattern, Instr.operands, Operands.bits]
    omega) rfl

theorem xorVxVy (x : Reg) (y : Reg) : Statement (.xorVxVy x y) :=
  of_row 18 (by decide) (by
    show (encode (.xorVxVy x y) &&& 0xF00F#16).toNat = 0x8003
    rw [toNat_and_F00F, encode_toNat]
    simp only [Instr.pattern, Instr.operands, Operands.bits]
    omega) rfl

theorem addVxVy (x : Reg) (y : Reg) : Statement (.addVxVy x y) :=
  of_row 19 (by decide) (by
    show (encode (.addVxVy x y) &&& 0xF00F#16).toNat = 0x8004
    rw [toNat_and_F00F, encode_toNat]
    simp only [Instr.pattern, Instr.operands, Operands.bits]
    omega) rfl

theorem subVxVy (x : Reg) (y : Reg) : Statement (.subVxVy x y) :=
  of_row 20 (by decide) (by
    show (encode (.subVxVy x y) &&& 0xF00F#16).toNat = 0x8005
    rw [toNat_and_F00F, encode_toNat]
    simp only [Instr.pattern, Instr.operands, Operands.bits]
    omega) rfl

theorem shrVxVy (x : Reg) (y : Reg) : Statement (.shrVxVy x y) :=
  of_row 21 (by decide) (by
    show (encode (.shrVxVy x y) &&& 0xF00F#16).toNat = 0x8006
    rw [toNat_and_F00F, encode_toNat]
    simp only [Instr.pattern, Instr.operands, Operands.bits]
    omega) rfl

theorem subnVxVy (x : Reg) (y : Reg) : Statement (.subnVxVy x y) :=
  of_row 22 (by decide) (by
    show (encode (.subnVxVy x y) &&& 0xF00F#16).toNat = 0x8007
    rw [toNat_and_F00F, encode_toNat]
    simp only [Instr.pattern, Instr.operands, Operands.bits]
    omega) rfl

theorem shlVxVy (x : Reg) (y : Reg) : Statement (.shlVxVy x y) :=
  of_row 23 (by decide) (by
    show (encode (.shlVxVy x y) &&& 0xF00F#16).toNat = 0x800E
    rw [toNat_and_F00F, encode_toNat]
    simp only [Instr.pattern, Instr.operands, Operands.bits]
    omega) rfl

theorem sneVxVy (x : Reg) (y : Reg) : Statement (.sneVxVy x y) :=
  of_row 24 (by decide) (by
    show (encode (.sneVxVy x y) &&& 0xF00F#16).toNat = 0x9000
    rw [toNat_and_F00F, encode_toNat]
    simp only [Instr.pattern, Instr.operands, Operands.bits]
    omega) rfl

theorem ldINnn (nnn : Addr) : Statement (.ldINnn nnn) :=
  of_row 25 (by decide) (by
    show (encode (.ldINnn nnn) &&& 0xF000#16).toNat = 0xA000
    rw [toNat_and_F000, encode_toNat]
    simp only [Instr.pattern, Instr.operands, Operands.bits]
    omega) rfl

theorem jpV0Nnn (nnn : Addr) : Statement (.jpV0Nnn nnn) :=
  of_row 26 (by decide) (by
    show (encode (.jpV0Nnn nnn) &&& 0xF000#16).toNat = 0xB000
    rw [toNat_and_F000, encode_toNat]
    simp only [Instr.pattern, Instr.operands, Operands.bits]
    omega) rfl

theorem rndVxKk (x : Reg) (kk : Byte) : Statement (.rndVxKk x kk) :=
  of_row 27 (by decide) (by
    show (encode (.rndVxKk x kk) &&& 0xF000#16).toNat = 0xC000
    rw [toNat_and_F000, encode_toNat]
    simp only [Instr.pattern, Instr.operands, Operands.bits]
    omega) rfl

theorem drwVxVyN (x : Reg) (y : Reg) (n : Nibble) : Statement (.drwVxVyN x y n) :=
  of_row 28 (by decide) (by
    show (encode (.drwVxVyN x y n) &&& 0xF000#16).toNat = 0xD000
    rw [toNat_and_F000, encode_toNat]
    simp only [Instr.pattern, Instr.operands, Operands.bits]
    omega) rfl

theorem skpVx (x : Reg) : Statement (.skpVx x) :=
  of_row 29 (by decide) (by
    show (encode (.skpVx x) &&& 0xF0FF#16).toNat = 0xE09E
    rw [toNat_and_F0FF, encode_toNat]
    simp only [Instr.pattern, Instr.operands, Operands.bits]
    omega) rfl

theorem sknpVx (x : Reg) : Statement (.sknpVx x) :=
  of_row 30 (by decide) (by
    show (encode (.sknpVx x) &&& 0xF0FF#16).toNat = 0xE0A1
    rw [toNat_and_F0FF, encode_toNat]
    simp only [Instr.pattern, Instr.operands, Operands.bits]
    omega) rfl

theorem ldVxDt (x : Reg) : Statement (.ldVxDt x) :=
  of_row 31 (by decide) (by
    show (encode (.ldVxDt x) &&& 0xF0FF#16).toNat = 0xF007
    rw [toNat_and_F0FF, encode_toNat]
    simp only [Instr.pattern, Instr.operands, Operands.bits]
    omega) rfl

theorem ldVxK (x : Reg) : Statement (.ldVxK x) :=
  of_row 32 (by decide) (by
    show (encode (.ldVxK x) &&& 0xF0FF#16).toNat = 0xF00A
    rw [toNat_and_F0FF, encode_toNat]
    simp only [Instr.pattern, Instr.operands, Operands.bits]
    omega) rfl

theorem ldDtVx (x : Reg) : Statement (.ldDtVx x) :=
  of_row 33 (by decide) (by
    show (encode (.ldDtVx x) &&& 0xF0FF#16).toNat = 0xF015
    rw [toNat_and_F0FF, encode_toNat]
    simp only [Instr.pattern, Instr.operands, Operands.bits]
    omega) rfl

theorem ldStVx (x : Reg) : Statement (.ldStVx x) :=
  of_row 34 (by decide) (by
    show (encode (.ldStVx x) &&& 0xF0FF#16).toNat = 0xF018
    rw [toNat_and_F0FF, encode_toNat]
    simp only [Instr.pattern, Instr.operands, Operands.bits]
    omega) rfl

theorem addIVx (x : Reg) : Statement (.addIVx x) :=
  of_row 35 (by decide) (by
    show (encode (.addIVx x) &&& 0xF0FF#16).toNat = 0xF01E
    rw [toNat_and_F0FF, encode_toNat]
    simp only [Instr.pattern, Instr.operands, Operands.bits]
    omega) rfl

theorem ldFVx (x : Reg) : Statement (.ldFVx x) :=
  of_row 36 (by decide) (by
    show (encode (.ldFVx x) &&& 0xF0FF#16).toNat = 0xF029
    rw [toNat_and_F0FF, encode_toNat]
    simp only [Instr.pattern, Instr.operands, Operands.bits]
    omega) rfl

theorem ldHfVx (x : Reg) : Statement (.ldHfVx x) :=
  of_row 37 (by decide) (by
    show (encode (.ldHfVx x) &&& 0xF0FF#16).toNat = 0xF030
    rw [toNat_and_F0FF, encode_toNat]
    simp only [Instr.pattern, Instr.operands, Operands.bits]
    omega) rfl

theorem ldBVx (x : Reg) : Statement (.ldBVx x) :=
  of_row 38 (by decide) (by
    show (encode (.ldBVx x) &&& 0xF0FF#16).toNat = 0xF033
    rw [toNat_and_F0FF, encode_toNat]
    simp only [Instr.pattern, Instr.operands, Operands.bits]
    omega) rfl

theorem ldMemVx (x : Reg) : Statement (.ldMemVx x) :=
  of_row 39 (by decide) (by
    show (encode (.ldMemVx x) &&& 0xF0FF#16).toNat = 0xF055
    rw [toNat_and_F0FF, encode_toNat]
    simp only [Instr.pattern, Instr.operands, Operands.bits]
    omega) rfl

theorem ldVxMem (x : Reg) : Statement (.ldVxMem x) :=
  of_row 40 (by decide) (by
    show (encode (.ldVxMem x) &&& 0xF0FF#16).toNat = 0xF065
    rw [toNat_and_F0FF, encode_toNat]
    simp only [Instr.pattern, Instr.operands, Operands.bits]
    omega) rfl

theorem ldRVx (x : Reg) : Statement (.ldRVx x) :=
  of_row 41 (by decide) (by
    show (encode (.ldRVx x) &&& 0xF0FF#16).toNat = 0xF075
    rw [toNat_and_F0FF, encode_toNat]
    simp only [Instr.pattern, Instr.operands, Operands.bits]
    omega) rfl

theorem ldVxR (x : Reg) : Statement (.ldVxR x) :=
  of_row 42 (by decide) (by
    show (encode (.ldVxR x) &&& 0xF0FF#16).toNat = 0xF085
    rw [toNat_and_F0FF, encode_toNat]
    simp only [Instr.pattern, Instr.operands, Operands.bits]
    omega) rfl

end Sys2Proof.Laws.RowHit
end

