-- ==== Sys2Proof/Laws/Step.lean ====
section
/-! SUPPORT. What a cycle and a tick can do, said once: later proofs take these cases and unfold neither. -/
namespace Sys2Proof.Machine

/-- What the end of a cycle answers (R115, R311). -/
theorem endCycle_next {o : Result} {t : State} (h : endCycle o = .next t) :
    ∃ u, o = .next u ∧ t = if u.faultCause.isSome then u else u.pushDisplay := by
  cases o with
  | next u => exact ⟨u, rfl, by simpa [endCycle] using h.symm⟩
  | fault f => cases h
  | refused r => cases h

/-- Everything a cycle can do when it answers a next state (R331): a fetch fault, a DecodeFault, or the handler of the decoded
instruction followed by the display push. -/
theorem cycle_next {rnd : Byte} {s t : State} (h : cycle rnd s = .next t) :
    (∃ f, s.fetchFault = some f ∧ t = State.raise { s with rnd := rnd } f ⟨s.pc, 0⟩) ∨
    (s.fetchFault = none ∧ (∃ e, decodeWord s.fetchWord = .error e) ∧
      t = State.raise { s.fetched with rnd := rnd } .decodeFault ⟨s.pc, s.fetchWord⟩) ∨
    (s.fetchFault = none ∧ ∃ i u, decodeWord s.fetchWord = .ok i ∧ exec i { s.fetched with rnd := rnd } = .next u ∧
      t = if u.faultCause.isSome then u else u.pushDisplay) := by
  unfold cycle at h
  cases hf : s.fetchFault with
  | some f =>
    rw [hf] at h
    left
    exact ⟨f, rfl, by simpa using h.symm⟩
  | none =>
    rw [hf] at h
    right
    have hd : (State.raiseHere { s.fetched with rnd := rnd } .decodeFault) =
        State.raise { s.fetched with rnd := rnd } .decodeFault ⟨s.pc, s.fetchWord⟩ := by
      simp [State.fetched]
    simp only [execFetched] at h
    cases hw : decodeWord s.fetchWord with
    | ok i =>
      right
      simp only [State.fetched, hw] at h
      obtain ⟨u, hu, ht⟩ := endCycle_next h
      exact ⟨rfl, i, u, rfl, hu, ht⟩
    | error e =>
      left
      refine ⟨rfl, ⟨e, rfl⟩, ?_⟩
      rw [← hd]
      have hir : (State.fetched s).ir = s.fetchWord := rfl
      rw [hir, hw] at h
      cases e with
      | sysSpace =>
        simp only at h
        split at h
        · cases h
        · exact (Host.Outcome.next.inj h).symm
      | tooShort => exact (Host.Outcome.next.inj h).symm
      | noRow => exact (Host.Outcome.next.inj h).symm

/-- The fetch checks of R112 pass exactly when the program counter may be fetched from. -/
theorem fetchFault_eq_none_iff (s : State) : s.fetchFault = none ↔ s.fetchable := by
  have hb : s.pc.getLsbD 0 = false ↔ s.pc.toNat % 2 = 0 := by
    rw [BitVec.getLsbD, Nat.testBit_zero, decide_eq_false_iff_not]
    omega
  unfold State.fetchFault State.fetchable
  cases hp : s.pc.getLsbD 0 <;> cases s.config.allowOddPc <;> simp_all

/-- A cycle that fetches and decodes an instruction is its handler on the state after fetch, with the end of the cycle (R331). -/
theorem cycle_of_decode {s : State} {i : Instr} (rnd : Byte) (hf : s.fetchable) (hd : decodeWord s.wordAtPc = .ok i) :
    cycle rnd s = endCycle (exec i (s.afterFetch rnd)) := by
  have h : decodeWord (State.ir { s.fetched with rnd := rnd }) = .ok i := hd
  unfold cycle
  rw [(fetchFault_eq_none_iff s).2 hf]
  simp only [execFetched]
  rw [h]
  rfl

/-- A cycle that fetches a word of no row raises DecodeFault, or is refused for a word of the SYS space under `HAS_SYS` (R301,
R312). -/
theorem cycle_of_no_row {s : State} {e : DecodeReject} (rnd : Byte) (hf : s.fetchable)
    (hd : decodeWord s.wordAtPc = .error e) : cycle rnd s =
      if e = .sysSpace ∧ s.config.hasSys = true then .refused .sysNotDescribed
      else .next ((s.afterFetch rnd).raiseHere .decodeFault) := by
  have h : decodeWord (State.ir { s.fetched with rnd := rnd }) = .error e := hd
  unfold cycle
  rw [(fetchFault_eq_none_iff s).2 hf]
  simp only [execFetched]
  rw [h]
  cases e with
  | sysSpace =>
    simp only [true_and]
    rfl
  | tooShort => rfl
  | noRow => rfl

/-- Everything a tick can do when it answers a next state (R330). -/
theorem tick_next {i : TickInput} {s t : State} (h : tick i s = .next t) :
    (s.live = false ∧ t = s) ∨
    (s.live = true ∧ (i.cycleDue = false ∨ s.paused = true) ∧
      t = State.timerStepIf (s.setKeyboard i.keys) i.timerDue) ∨
    (s.live = true ∧ i.cycleDue = true ∧ s.paused = false ∧
      ∃ u, cycle i.rnd (s.setKeyboard i.keys) = .next u ∧ (t = u ∨ t = u.timerStep)) := by
  unfold tick at h
  cases hl : s.live with
  | false => left; rw [hl] at h; exact ⟨rfl, by simpa using h.symm⟩
  | true =>
    rw [hl] at h
    right
    simp only [if_true] at h
    split at h
    · rename_i hc
      simp only [Bool.and_eq_true, Bool.not_eq_true'] at hc
      right
      refine ⟨rfl, hc.1, hc.2, ?_⟩
      cases hcy : cycle i.rnd (s.setKeyboard i.keys) with
      | next u =>
        rw [hcy] at h
        refine ⟨u, rfl, ?_⟩
        simp only [afterCycle] at h
        split at h
        · left; simpa using h.symm
        all_goals
          simp only [State.timerStepIf] at h
          split at h
          · right; simpa using h.symm
          · left; simpa using h.symm
      | fault f => rw [hcy] at h; cases h
      | refused r => rw [hcy] at h; cases h
    · rename_i hc
      left
      refine ⟨rfl, ?_, by simpa using h.symm⟩
      cases hcd : i.cycleDue
      · exact Or.inl rfl
      · right
        cases hp : s.paused
        · simp [hcd, hp] at hc
        · rfl

/-- One step is the free step, or the first pending operation (log 6). -/
theorem step_eq (s : State) : step s =
    match s.pending with
    | [] => freeStep s
    | op :: rest => perform op { s with pending := rest } := rfl

/-- The program counter that `withFetchWord` leaves is the one before: the word stands where the next cycle fetches. -/
@[simp] theorem withFetchWord_pc (s : State) (nbits w : Nat) : (s.withFetchWord nbits w).pc = s.pc := rfl

@[simp] theorem withFetchWord_pending (s : State) (nbits w : Nat) : (s.withFetchWord nbits w).pending = [] := rfl

end Sys2Proof.Machine
end

