-- ==== Sys2Proof/Laws/Schedule.lean ====
section
/-! SUPPORT. Runs of the host's operations: what the step of a given operation is, what the ticks of an idle engine do, and the induction
over a run. -/
namespace Sys2Proof.Machine

variable (s : State)

namespace State

@[simp] theorem withPending_v (ops : List HostOp) : (s.withPending ops).v = s.v := rfl
@[simp] theorem withPending_i (ops : List HostOp) : (s.withPending ops).i = s.i := rfl
@[simp] theorem withPending_pc (ops : List HostOp) : (s.withPending ops).pc = s.pc := rfl
@[simp] theorem withPending_sp (ops : List HostOp) : (s.withPending ops).sp = s.sp := rfl
@[simp] theorem withPending_dt (ops : List HostOp) : (s.withPending ops).dt = s.dt := rfl
@[simp] theorem withPending_st (ops : List HostOp) : (s.withPending ops).st = s.st := rfl
@[simp] theorem withPending_ir (ops : List HostOp) : (s.withPending ops).ir = s.ir := rfl
@[simp] theorem withPending_stack (ops : List HostOp) : (s.withPending ops).stack = s.stack := rfl
@[simp] theorem withPending_mem (ops : List HostOp) : (s.withPending ops).mem = s.mem := rfl
@[simp] theorem withPending_r (ops : List HostOp) : (s.withPending ops).r = s.r := rfl
@[simp] theorem withPending_extendedMode (ops : List HostOp) : (s.withPending ops).extendedMode = s.extendedMode := rfl
@[simp] theorem withPending_pixels (ops : List HostOp) : (s.withPending ops).pixels = s.pixels := rfl
@[simp] theorem withPending_displayChanged (ops : List HostOp) : (s.withPending ops).displayChanged = s.displayChanged := rfl
@[simp] theorem withPending_keyboard (ops : List HostOp) : (s.withPending ops).keyboard = s.keyboard := rfl
@[simp] theorem withPending_exited (ops : List HostOp) : (s.withPending ops).exited = s.exited := rfl
@[simp] theorem withPending_paused (ops : List HostOp) : (s.withPending ops).paused = s.paused := rfl
@[simp] theorem withPending_faultCause (ops : List HostOp) : (s.withPending ops).faultCause = s.faultCause := rfl
@[simp] theorem withPending_faultInfo (ops : List HostOp) : (s.withPending ops).faultInfo = s.faultInfo := rfl
@[simp] theorem withPending_config (ops : List HostOp) : (s.withPending ops).config = s.config := rfl
@[simp] theorem withPending_rnd (ops : List HostOp) : (s.withPending ops).rnd = s.rnd := rfl
@[simp] theorem withPending_draws (ops : List HostOp) : (s.withPending ops).draws = s.draws := rfl
@[simp] theorem withPending_outputs (ops : List HostOp) : (s.withPending ops).outputs = s.outputs := rfl
@[simp] theorem withPending_pending (ops : List HostOp) : (s.withPending ops).pending = ops := rfl
@[simp] theorem withPending_withPending (a b : List HostOp) : (s.withPending a).withPending b = s.withPending b := rfl
@[simp] theorem withPending_readByte (ops : List HostOp) (a : Nat) : (s.withPending ops).readByte a = s.readByte a := rfl
@[simp] theorem withPending_engine (ops : List HostOp) : (s.withPending ops).engine = s.engine := rfl
@[simp] theorem withPending_live (ops : List HostOp) : (s.withPending ops).live = s.live := rfl

end State

/-- The step of a state whose one pending operation is given is that operation (log 6). -/
theorem step_withPending (op : HostOp) : step (s.withPending [op]) = perform op (s.withPending []) := rfl

/-- A tick of a Paused engine, or of a Running one with no cycle due, is the keyboard sample and the timer step (R330, R340). -/
theorem tick_idle {t : TickInput} {s : State} (h : s.engine = .paused ∨ (s.engine = .running ∧ t.cycleDue = false)) :
    tick t s = .next ((s.setKeyboard t.keys).timerStepIf t.timerDue) := by
  have hl : s.live = true ∧ (t.cycleDue && !s.paused) = false := by
    cases hf : s.faultCause <;> cases he : s.exited <;> cases hp : s.paused <;>
      simp_all [State.engine, State.live]
  unfold tick
  simp only [hl.1, State.setKeyboard_paused, hl.2, if_true, Bool.false_eq_true, if_false]

/-- The timer step keeps the engine state (R335 lists no transition for it). -/
@[simp] theorem timerStep_engine : s.timerStep.engine = s.engine := by
  rw [State.timerStep_eq]
  rfl

/-- What holds at the start of a run and is kept by every operation of it holds of all its states. -/
theorem HostRun.invariant {ops : Nat → HostOp} {states : Nat → State} (h : HostRun ops states) {P : State → Prop}
    (h0 : P (states 0)) (hs : ∀ n t, P (states n) → step ((states n).withPending [ops n]) = .next t → P t) (n : Nat) :
    P (states n) := by
  induction n with
  | zero => exact h0
  | succ n ih => exact hs n _ ih (h n)

end Sys2Proof.Machine
end

