-- ==== Sys2Proof/Tests/Slice0.lean ====
section
/-! SUPPORT. The model's own tests. The expected results are those of spec/95_test_vectors.md (the vector's name stands in the
docstring) or read from the cited rule; the witnesses show that the hypotheses of each obligation can be met together. -/

namespace Sys2Proof.Tests

open Sys2Proof Sys2Proof.Machine

/-! ### Helpers -/

/-- The outcome is a next state of which `p` holds. -/
def after (o : Result) (p : State → Bool) : Bool :=
  match o with
  | .next s => p s
  | .fault _ => false
  | .refused _ => false

theorem after_next {o : Result} {p : State → Bool} (h : after o p = true) : ∃ t, o = .next t ∧ p t = true := by
  cases o with
  | next t => exact ⟨t, rfl, h⟩
  | fault f => cases h
  | refused r => cases h

/-- The machine itself stops with the fault. -/
def stops (o : Result) (f : Fault) : Bool :=
  match o with
  | .next _ => false
  | .fault g => g == f
  | .refused _ => false

/-- The model refuses. -/
def refuses (o : Result) (r : Refusal) : Bool :=
  match o with
  | .next _ => false
  | .fault _ => false
  | .refused q => q == r

/-- One step that runs the word from a state. -/
def run (w : Nat) (s : State) (p : State → Bool) : Bool := after (step (s.withFetchWord 16 w)) p

/-- A fault at 0x200 with its opcode. -/
def faulted (c : FaultCause) (w : Word) (t : State) : Bool := t.faultCause == some c && t.faultInfo == ⟨0x200, w⟩

def base : State := State.reset

def withRegs (l : List (Reg × Byte)) : State := l.foldl (fun s p => s.setV p.1 p.2) base

def withConfig (f : Config → Config) : State := { base with config := f base.config }

def atI (w : Word) : State := base.setI w

def atPc (w : Word) : State := base.setPc w

def held (l : List Nat) : Vector Bool 16 := Vector.ofFn fun k => l.contains k.val

def quietTick : TickInput := ⟨held [], true, false, 0, false⟩

/-! ### WellFormed: each check refuses an operand that its field cannot hold (R117) -/

theorem test_wf_n4 : Operands.wellFormed (.n4 15) = true ∧ Operands.wellFormed (.n4 16) = false := by decide
theorem test_wf_a : Operands.wellFormed (.a 4095) = true ∧ Operands.wellFormed (.a 4096) = false := by decide
theorem test_wf_xk : Operands.wellFormed (.xk 15 255) = true ∧ Operands.wellFormed (.xk 16 0) = false ∧
    Operands.wellFormed (.xk 0 256) = false := by decide
theorem test_wf_xy : Operands.wellFormed (.xy 15 15) = true ∧ Operands.wellFormed (.xy 16 0) = false ∧
    Operands.wellFormed (.xy 0 16) = false := by decide
theorem test_wf_xyn : Operands.wellFormed (.xyn 15 15 15) = true ∧ Operands.wellFormed (.xyn 16 0 0) = false ∧
    Operands.wellFormed (.xyn 0 16 0) = false ∧ Operands.wellFormed (.xyn 0 0 16) = false := by decide
theorem test_wf_xOnly : Operands.wellFormed (.xOnly 15) = true ∧ Operands.wellFormed (.xOnly 16) = false := by decide

/-! ### Decode: a word of each row, written out from the encodings of R120 -/

theorem test_decode_system :
    decodeWord 0b0000000011100000 = .ok .cls ∧ decodeWord 0b0000000011101110 = .ok .ret ∧
    decodeWord 0b0000000011000000 = .ok (.scd 0) ∧ decodeWord 0b0000000011001010 = .ok (.scd 10) ∧
    decodeWord 0b0000000011111011 = .ok .scr ∧ decodeWord 0b0000000011111100 = .ok .scl ∧
    decodeWord 0b0000000011111101 = .ok .exit ∧ decodeWord 0b0000000011111110 = .ok .low ∧
    decodeWord 0b0000000011111111 = .ok .high := by decide

theorem test_decode_jump :
    decodeWord 0b0001101010111100 = .ok (.jp 0xABC) ∧ decodeWord 0b0010001100000001 = .ok (.call 0x301) ∧
    decodeWord 0b0011010101000010 = .ok (.seVxKk 5 0x42) ∧ decodeWord 0b0100111110000001 = .ok (.sneVxKk 15 0x81) ∧
    decodeWord 0b0101000100100000 = .ok (.seVxVy 1 2) ∧ decodeWord 0b0110101010011100 = .ok (.ldVxKk 10 0x9C) ∧
    decodeWord 0b0111001111111110 = .ok (.addVxKk 3 0xFE) := by decide

theorem test_decode_registers :
    decodeWord 0b1000000111110000 = .ok (.ldVxVy 1 15) ∧ decodeWord 0b1000001000110001 = .ok (.orVxVy 2 3) ∧
    decodeWord 0b1000010001010010 = .ok (.andVxVy 4 5) ∧ decodeWord 0b1000011001110011 = .ok (.xorVxVy 6 7) ∧
    decodeWord 0b1000100010010100 = .ok (.addVxVy 8 9) ∧ decodeWord 0b1000101010110101 = .ok (.subVxVy 10 11) ∧
    decodeWord 0b1000101010110110 = .ok (.shrVxVy 10 11) ∧ decodeWord 0b1000110011010111 = .ok (.subnVxVy 12 13) ∧
    decodeWord 0b1000111000011110 = .ok (.shlVxVy 14 1) ∧ decodeWord 0b1001000110100000 = .ok (.sneVxVy 1 10) := by decide

theorem test_decode_wide :
    decodeWord 0b1010000100100011 = .ok (.ldINnn 0x123) ∧ decodeWord 0b1011111111111111 = .ok (.jpV0Nnn 0xFFF) ∧
    decodeWord 0b1100000000001111 = .ok (.rndVxKk 0 0x0F) ∧ decodeWord 0b1101000100100111 = .ok (.drwVxVyN 1 2 7) ∧
    decodeWord 0b1110010110011110 = .ok (.skpVx 5) ∧ decodeWord 0b1110011010100001 = .ok (.sknpVx 6) := by decide

theorem test_decode_f :
    decodeWord 0b1111000100000111 = .ok (.ldVxDt 1) ∧ decodeWord 0b1111001000001010 = .ok (.ldVxK 2) ∧
    decodeWord 0b1111001100010101 = .ok (.ldDtVx 3) ∧ decodeWord 0b1111010000011000 = .ok (.ldStVx 4) ∧
    decodeWord 0b1111010100011110 = .ok (.addIVx 5) ∧ decodeWord 0b1111011000101001 = .ok (.ldFVx 6) ∧
    decodeWord 0b1111011100110000 = .ok (.ldHfVx 7) ∧ decodeWord 0b1111100000110011 = .ok (.ldBVx 8) ∧
    decodeWord 0b1111100101010101 = .ok (.ldMemVx 9) ∧ decodeWord 0b1111101001100101 = .ok (.ldVxMem 10) ∧
    decodeWord 0b1111101101110101 = .ok (.ldRVx 11) ∧ decodeWord 0b1111110010000101 = .ok (.ldVxR 12) := by decide

/-- The words that section 1 of the vectors lists as no row. -/
theorem test_decode_refused :
    decodeWord 0x0000 = .error .sysSpace ∧ decodeWord 0x0123 = .error .sysSpace ∧ decodeWord 0x00D0 = .error .sysSpace ∧
    decodeWord 0x00FA = .error .sysSpace ∧ decodeWord 0x5121 = .error .noRow ∧ decodeWord 0x8AB8 = .error .noRow ∧
    decodeWord 0x800F = .error .noRow ∧ decodeWord 0x9009 = .error .noRow ∧ decodeWord 0xE59F = .error .noRow ∧
    decodeWord 0xF31F = .error .noRow ∧ decodeWord 0xF095 = .error .noRow := by decide

theorem test_decode_bytes : decodeBytes [0x6A, 0x9C, 0x12] = .ok (.ldVxKk 10 0x9C, [0x12]) ∧
    decodeBytes [0x6A] = .error .tooShort ∧ decodeTableWord 16 0xF085 = some (.ldVxR 0) := by decide

/-- Every row's own match value decodes to that row's name and pattern. -/
theorem test_rows : table.all (fun r => r.pattern &&& r.mask == r.pattern &&
    (table.find? fun q => q.selects r.pattern).map (·.name) == some r.name) = true := by decide

/-! ### ALU -/

/-- A1 -/
theorem test_ldVxKk : run 0x6A9C base (fun t => t.getV 10 == 0x9C && t.pc == 0x202) = true := by decide
/-- A2 -/
theorem test_addVxKk : run 0x7001 (withRegs [(0, 0xFF), (15, 0x55)]) (fun t => t.getV 0 == 0 && t.getV 15 == 0x55) = true := by
  decide
/-- A3 -/
theorem test_ldVxVy : run 0x8120 (withRegs [(2, 0x7E)]) (fun t => t.getV 1 == 0x7E) = true := by decide
/-- A4 -/
theorem test_or : run 0x8011 (withRegs [(0, 0xF0), (1, 0x0F), (15, 0x77)])
    (fun t => t.getV 0 == 0xFF && t.getV 15 == 0x77) = true := by decide
/-- A7 -/
theorem test_or_reset : run 0x8011
    { withRegs [(0, 0xF0), (1, 0x0F), (15, 0x77)] with config := { Config.default with logicVfReset := true } }
    (fun t => t.getV 0 == 0xFF && t.getV 15 == 0) = true := by decide
/-- A5 -/
theorem test_and : run 0x8012 (withRegs [(0, 0xF0), (1, 0x3C), (15, 0x77)])
    (fun t => t.getV 0 == 0x30 && t.getV 15 == 0x77) = true := by decide
/-- A6 -/
theorem test_xor : run 0x8013 (withRegs [(0, 0xFF), (1, 0x0F), (15, 0x77)])
    (fun t => t.getV 0 == 0xF0 && t.getV 15 == 0x77) = true := by decide
/-- S1 -/
theorem test_add : run 0x8014 (withRegs [(0, 0xA0), (1, 0xB0)])
    (fun t => t.getV 0 == 0x50 && t.getV 15 == 1 && t.pc == 0x202) = true := by decide
/-- A10, A11 -/
theorem test_add_vf : run 0x8F14 (withRegs [(15, 0xF0), (1, 0x20)]) (fun t => t.getV 15 == 1) = true ∧
    run 0x8F14 { withRegs [(15, 0xF0), (1, 0x20)] with config := { Config.default with flagLast := false } }
      (fun t => t.getV 15 == 0x10) = true := by decide
/-- S3 -/
theorem test_sub : run 0x8015 (withRegs [(0, 0x10), (1, 0x20)]) (fun t => t.getV 0 == 0xF0 && t.getV 15 == 0) = true := by
  decide
/-- A13 -/
theorem test_sub_equal : run 0x8015 (withRegs [(0, 0x42), (1, 0x42)]) (fun t => t.getV 0 == 0 && t.getV 15 == 0) = true := by
  decide
/-- A16 -/
theorem test_subn : run 0x8127 (withRegs [(1, 0x10), (2, 0x30)]) (fun t => t.getV 1 == 0x20 && t.getV 15 == 1) = true := by
  decide
/-- A17 -/
theorem test_subn_borrow : run 0x8127 (withRegs [(1, 0x30), (2, 0x10)])
    (fun t => t.getV 1 == 0xE0 && t.getV 15 == 0) = true := by decide
/-- A18 -/
theorem test_shr : run 0x8016 (withRegs [(0, 0x01), (1, 0xFF)])
    (fun t => t.getV 0 == 0 && t.getV 1 == 0xFF && t.getV 15 == 1) = true := by decide
/-- A19 -/
theorem test_shr_unsigned : run 0x8016 (withRegs [(0, 0x80)]) (fun t => t.getV 0 == 0x40 && t.getV 15 == 0) = true := by decide
/-- A21 -/
theorem test_shl : run 0x801E (withRegs [(0, 0x80)]) (fun t => t.getV 0 == 0 && t.getV 15 == 1) = true := by decide
/-- A22 -/
theorem test_shl_low : run 0x801E (withRegs [(0, 0x7F)]) (fun t => t.getV 0 == 0xFE && t.getV 15 == 0) = true := by decide
/-- A23 -/
theorem test_rnd : after (cycle 0xA7 (base.withFetchWord 16 0xC00F)) (fun t => t.getV 0 == 0x07) = true := by decide

/-! ### Display -/

/-- D10 -/
theorem test_cls : run 0x00E0 { base with pixels := [0, 2047, 5000] }
    (fun t => t.pixels == [5000] && !t.displayChanged) = true := by decide
/-- D1 -/
theorem test_drw_wrap : run 0xD015 (withRegs [(0, 70), (1, 33)])
    (fun t => t.getV 15 == 0 && t.pixels == [70, 71, 72, 73, 134, 137, 198, 201, 262, 265, 326, 327, 328, 329]) = true := by
  decide
/-- D7, and its sprite once more over itself: a collision (R184). -/
theorem test_drw_wide : run 0xD000 { (atI 0x300).writeBytes 0x300 [0x80, 0x01] with extendedMode := true }
      (fun t => t.getV 15 == 0 && t.pixels == [0, 15]) = true ∧
    run 0xD000 { (atI 0x300).writeBytes 0x300 [0x80, 0x01] with extendedMode := true, pixels := [0, 15] }
      (fun t => t.getV 15 == 1 && t.pixels == []) = true := by decide
/-- D11 -/
theorem test_scd : run 0x00C3 { base with extendedMode := true, pixels := [10 * 128 + 5] }
    (fun t => t.pixels == [13 * 128 + 5]) = true := by decide
/-- D12 -/
theorem test_scd_normal : run 0x00C1 base (faulted .modeFault 0x00C1) = true := by decide
/-- D14 -/
theorem test_scr : run 0x00FB { base with pixels := [0, 62] } (fun t => t.pixels == [4]) = true := by decide
/-- D15 -/
theorem test_scl : run 0x00FC { base with pixels := [68] } (fun t => t.pixels == [64]) = true := by decide
/-- D16; and from extended mode the mode changes and the picture is pushed (R190). -/
theorem test_low : run 0x00FE { base with displayChanged := false } (fun t => !t.extendedMode && t.outputs == []) = true ∧
    run 0x00FE { base with extendedMode := true, displayChanged := false }
      (fun t => !t.extendedMode && t.outputs == [.updateDisplay false []]) = true := by decide
/-- D18 -/
theorem test_high : run 0x00FF { base with pixels := [67] }
    (fun t => t.extendedMode && t.pixels == [67] && t.outputs == [.updateDisplay true [67]]) = true := by decide

/-! ### Keys and timers -/

/-- K1 -/
theorem test_skp : run 0xE19E { withRegs [(1, 5)] with keyboard := held [5] } (fun t => t.pc == 0x204) = true := by decide
/-- K5 -/
theorem test_skp_range : run 0xE19E (withRegs [(1, 16)]) (faulted .keyRangeFault 0xE19E) = true := by decide
/-- K3 -/
theorem test_sknp : run 0xE1A1 (withRegs [(1, 5)]) (fun t => t.pc == 0x204) = true := by decide
/-- K4 -/
theorem test_sknp_held : run 0xE1A1 { withRegs [(1, 5)] with keyboard := held [5] } (fun t => t.pc == 0x202) = true := by decide
/-- S7 -/
theorem test_ldVxK_none : run 0xF20A base (fun t => t.pc == 0x200 && t.getV 2 == 0) = true := by decide
/-- S8 -/
theorem test_ldVxK : run 0xF20A { base with keyboard := held [3, 9] } (fun t => t.pc == 0x202 && t.getV 2 == 3) = true := by
  decide
/-- K7 -/
theorem test_ldVxDt : run 0xF007 (base.setDt 0x2A) (fun t => t.getV 0 == 0x2A) = true := by decide
/-- K8 -/
theorem test_ldDtVx : run 0xF115 (withRegs [(1, 0xFF)]) (fun t => t.dt == 0xFF) = true := by decide
/-- K9 -/
theorem test_ldStVx : run 0xF118 (withRegs [(1, 1)]) (fun t => t.st == 1 && t.timerStep.st == 0 &&
    t.timerStep.outputs.length == t.outputs.length + 1) = true := by decide

/-! ### Index register, memory, RPL -/

/-- M1 -/
theorem test_ldI : run 0xA123 base (fun t => t.i == 0x123) = true := by decide
/-- M3 -/
theorem test_addI : run 0xF41E ((atI 0x00F0).setV 4 0x10) (fun t => t.i == 0x100 && t.getV 15 == 1) = true := by decide
/-- M4 -/
theorem test_addI_wrap : run 0xF41E ((atI 0xFFFF).setV 4 0x01) (fun t => t.i == 0 && t.getV 15 == 1) = true := by decide
/-- M7 -/
theorem test_ldF : run 0xF429 (withRegs [(4, 0x0F)]) (fun t => t.i == 0x4B) = true := by decide
/-- M8 -/
theorem test_ldF_range : run 0xF429 (withRegs [(4, 0x10)]) (faulted .glyphRangeFault 0xF429) = true := by decide
/-- M9 -/
theorem test_ldHf : run 0xF430 (withRegs [(4, 0x0F)]) (fun t => t.i == 0xE6) = true := by decide
/-- M11 -/
theorem test_ldB : run 0xF033 ((atI 0xFFD).setV 0 255)
    (fun t => t.readByte 0xFFD == 2 && t.readByte 0xFFE == 5 && t.readByte 0xFFF == 5) = true := by decide
/-- M12 -/
theorem test_ldB_range : run 0xF033 ((atI 0xFFE).setV 0 255)
    (fun t => faulted .memRangeFault 0xF033 t && t.readByte 0xFFE == 0) = true := by decide
/-- M14 -/
theorem test_store : run 0xFF55 ((withRegs [(0, 9), (15, 7)]).setI 0xFF0)
    (fun t => t.readByte 0xFF0 == 9 && t.readByte 0xFFF == 7 && t.i == 0xFF0) = true := by decide
/-- M16 -/
theorem test_store_quirk : run 0xF255
    { atI 0xFF0 with config := { Config.default with loadStoreI := .plusXPlus1 } } (fun t => t.i == 0xFF3) = true := by decide
/-- M17 -/
theorem test_load : run 0xF265 (((atI 0x300).writeBytes 0x300 [0x11, 0x22, 0x33]).setV 3 0x44)
    (fun t => t.getV 0 == 0x11 && t.getV 1 == 0x22 && t.getV 2 == 0x33 && t.getV 3 == 0x44) = true := by decide
/-- M19 -/
theorem test_ldR : run 0xF775 (withRegs [(0, 1), (7, 8)]) (fun t => t.r[0] == 1 && t.r[7] == 8) = true := by decide
/-- M20 -/
theorem test_ldR_range : run 0xF875 base (faulted .rplRangeFault 0xF875) = true := by decide
/-- M21 -/
theorem test_ldVxR : run 0xF385 { base with r := ⟨#[9, 8, 7, 6, 5, 4, 3, 2], rfl⟩ }
    (fun t => t.getV 0 == 9 && t.getV 3 == 6 && t.getV 4 == 0) = true := by decide

/-! ### Control flow and system -/

/-- C1 -/
theorem test_jp : run 0x1ABC base (fun t => t.pc == 0xABC) = true := by decide
/-- C5 -/
theorem test_call : run 0x2300 (base.setSp 15)
    (fun t => t.stack[15] == 0x202 && t.sp == 16 && t.pc == 0x300) = true := by decide
/-- C4 -/
theorem test_call_full : run 0x2300 (base.setSp 16)
    (fun t => faulted .stackOverflow 0x2300 t && t.sp == 16 && t.pc == 0x202) = true := by decide
/-- Cycle 3 of S5: the entry below the depth comes back, and it stays in its slot. -/
theorem test_ret : run 0x00EE (((base.setSp 2).setStack 1 0x302).setStack 0 0x202)
    (fun t => t.pc == 0x302 && t.sp == 1 && t.stack[1] == 0x302) = true := by decide
/-- C6 -/
theorem test_ret_empty : run 0x00EE base (fun t => faulted .stackUnderflow 0x00EE t && t.sp == 0) = true := by decide
/-- C7 -/
theorem test_seVxKk : run 0x3042 (withRegs [(0, 0x42)]) (fun t => t.pc == 0x204) = true := by decide
/-- C9 -/
theorem test_sneVxKk : run 0x4042 (withRegs [(0, 0x41)]) (fun t => t.pc == 0x204) = true := by decide
/-- C10 -/
theorem test_seVxVy : run 0x5010 (withRegs [(0, 3), (1, 3)]) (fun t => t.pc == 0x204) = true := by decide
/-- C13 -/
theorem test_sneVxVy : run 0x9010 (withRegs [(0, 1), (1, 2)]) (fun t => t.pc == 0x204) = true := by decide
/-- C15 -/
theorem test_jpV0 : run 0xBFFF (withRegs [(0, 0xFF)]) (fun t => t.pc == 0x10FE) = true := by decide
/-- C16 -/
theorem test_jpV0_always_v0 : run 0xB300 (withRegs [(0, 0x02), (3, 0x40)]) (fun t => t.pc == 0x302) = true := by decide
/-- Y2 -/
theorem test_exit : run 0x00FD base
    (fun t => t.exited && t.pc == 0x202 && t.engine == .exited && t.outputs == [.updateDisplay false []]) = true := by decide

/-! ### Cycle, tick and loads -/

/-- F10 -/
theorem test_fetch_order : run 0x1234 base (fun t => t.ir == 0x1234 && t.pc == 0x234) = true := by decide
/-- F2 -/
theorem test_fetch_align_first : after (cycle 0 (atPc 0xFFF)) (fun t => t.faultCause == some .pcAlignFault && t.pc == 0xFFF &&
    t.faultInfo == ⟨0xFFF, 0⟩) = true := by decide
/-- F7 -/
theorem test_decode_fault : run 0x8008 base (fun t => faulted .decodeFault 0x8008 t && t.ir == 0x8008 && t.pc == 0x202) = true := by
  decide
/-- Y5 -/
theorem test_sys_refused :
    refuses (step ((withConfig fun c => { c with hasSys := true }).withFetchWord 16 0x0123)) .sysNotDescribed = true := by decide
/-- T2 -/
theorem test_tick_order : after (tick { quietTick with timerDue := true } ((base.setDt 5).withFetchWord 16 0xF007))
    (fun t => t.getV 0 == 5 && t.dt == 4) = true := by decide
/-- T9 -/
theorem test_tick_fault : after (tick { quietTick with timerDue := true } ((base.setDt 5).withFetchWord 16 0x8008))
    (fun t => t.dt == 5 && t.engine == .faulted) = true := by decide
/-- B5: the image stands at 0x200, `R` and the fault are cleared. -/
theorem test_load_program : after (perform (.loadProgram (some [0xAB, 0xCD])) { base.raise .decodeFault ⟨0, 0⟩ with
    r := Vector.replicate 8 7 }) (fun t => t.readByte 0x200 == 0xAB && t.readByte 0x201 == 0xCD && t.r[0] == 0 &&
      t.engine == .running) = true := by decide

/-! ### Witnesses: the hypotheses of the obligations, met together -/

theorem wf_nil_pair (s : State) (hm : s.mem = []) (hp : s.pixels = []) (hs : s.sp.toNat ≤ 16) : s.Inv := by
  refine ⟨hs, ?_, ?_⟩
  · rw [hm]; rfl
  · rw [hp]; rfl

theorem fetchable_even {s : State} (h1 : s.pc.toNat % 2 = 0) (h2 : s.pc.toNat + 1 ≤ 0xFFF) : s.fetchable := ⟨Or.inl h1, h2⟩

theorem base_inv : base.Inv := wf_nil_pair base rfl rfl (by decide)

theorem fetchable_base : base.fetchable := fetchable_even (by decide) (by decide)

/-- A state about to run a word. -/
def at200 (w : Nat) : State := base.withFetchWord 16 w

theorem at200_fetchable (w : Nat) : (at200 w).fetchable :=
  fetchable_even (by rw [at200, withFetchWord_pc]; decide) (by rw [at200, withFetchWord_pc]; decide)

theorem witness_EncodeInvertsDecode : decodeWord 0x8AB6 = .ok (.shrVxVy 10 11) ∧ decodeWord 0x00CF = .ok (.scd 15) := by decide

/-- One word of each refused class, and the assigned words at the edges of the first. -/
theorem witness_UnassignedWordsAreRefused :
    decodeWord 0x00BF = .error .sysSpace ∧ decodeWord 0x00C0 = .ok (.scd 0) ∧ decodeWord 0x00CF = .ok (.scd 15) ∧
    decodeWord 0x00D0 = .error .sysSpace ∧ decodeWord 0x0FFF = .error .sysSpace ∧ decodeWord 0x1000 = .ok (.jp 0) ∧
    decodeWord 0x5001 = .error .noRow ∧ decodeWord 0x900F = .error .noRow ∧ decodeWord 0x8008 = .error .noRow ∧
    decodeWord 0xE09F = .error .noRow ∧ decodeWord 0xFFFF = .error .noRow := by decide

theorem witness_StepRunsDecodedInstruction :
    (at200 0x6A9C).pending = [] ∧ (at200 0x6A9C).live = true ∧ (at200 0x6A9C).fetchable ∧
    decodeBytes [(at200 0x6A9C).readByte (at200 0x6A9C).pc.toNat, (at200 0x6A9C).readByte ((at200 0x6A9C).pc.toNat + 1)] =
      .ok (.ldVxKk 10 0x9C, []) :=
  ⟨rfl, rfl, at200_fetchable _, by decide⟩

theorem witness_PendingOperationIsPerformed : State.pending { base with pending := [.pause true] } = .pause true :: [] := rfl

theorem witness_PlacedWordIsFetched : 0x6A9C < 65536 ∧ (atPc 0xFFE).Inv ∧ (atPc 0xFFE).fetchable :=
  ⟨by decide, wf_nil_pair _ rfl rfl (by decide), fetchable_even (by decide) (by decide)⟩

theorem witness_FetchFaults_odd : (atPc 0x201).pc.toNat % 2 = 1 ∧ (atPc 0x201).config.allowOddPc = false := by decide
theorem witness_FetchFaults_odd_end : (atPc 0xFFF).pc.toNat % 2 = 1 ∧ (atPc 0xFFF).config.allowOddPc = false := by decide
theorem witness_FetchFaults_range : ((atPc 0x1000).pc.toNat % 2 = 0 ∨ (atPc 0x1000).config.allowOddPc = true) ∧
    0xFFF < (atPc 0x1000).pc.toNat + 1 := by decide
theorem witness_FetchFaults_range_odd :
    (State.config { atPc 0xFFF with config := { Config.default with allowOddPc := true } }).allowOddPc = true ∧
    0xFFF < (atPc 0xFFF).pc.toNat + 1 := by decide

theorem witness_UnassignedWordRaisesDecodeFault :
    (at200 0x8008).fetchable ∧ (∀ r ∈ table, r.selects (at200 0x8008).wordAtPc = false) ∧
    ((at200 0x8008).config.hasSys = false ∨ 0x1000 ≤ (at200 0x8008).wordAtPc.toNat) :=
  ⟨at200_fetchable _, by decide, Or.inl rfl⟩

theorem witness_UnassignedWordRaisesDecodeFault_sys :
    (at200 0x0FFF).fetchable ∧ (∀ r ∈ table, r.selects (at200 0x0FFF).wordAtPc = false) ∧
    ((at200 0x0FFF).config.hasSys = false ∨ 0x1000 ≤ (at200 0x0FFF).wordAtPc.toNat) :=
  ⟨at200_fetchable _, by decide, Or.inl rfl⟩

theorem witness_UnassignedWordRaisesDecodeFault_only : (at200 0x8008).faultCause = none ∧
    ∃ t, cycle 0 (at200 0x8008) = .next t ∧ (t.faultCause == some .decodeFault) = true :=
  ⟨by decide, after_next (by decide)⟩

/-- A state of a machine with the SYS space, about to run a word. -/
def sys200 (w : Nat) : State := (withConfig fun c => { c with hasSys := true }).withFetchWord 16 w

theorem sys200_fetchable (w : Nat) : (sys200 w).fetchable :=
  fetchable_even (by rw [sys200, withFetchWord_pc]; decide) (by rw [sys200, withFetchWord_pc]; decide)

theorem witness_UnassignedWordRaisesDecodeFault_outside_sys :
    (sys200 0x5001).fetchable ∧ (∀ r ∈ table, r.selects (sys200 0x5001).wordAtPc = false) ∧
    0x1000 ≤ (sys200 0x5001).wordAtPc.toNat :=
  ⟨sys200_fetchable _, by decide, by decide⟩

theorem witness_SysWordsAreRefused :
    (sys200 0x0FFF).fetchable ∧ (∀ r ∈ table, r.selects (sys200 0x0FFF).wordAtPc = false) ∧
    (sys200 0x0FFF).config.hasSys = true ∧ (sys200 0x0FFF).wordAtPc.toNat < 0x1000 :=
  ⟨sys200_fetchable _, by decide, rfl, by decide⟩

theorem witness_FetchIsBigEndian : (at200 0x1234).fetchable ∧ ∃ t, cycle 0 (at200 0x1234) = .next t ∧ (t.ir == 0x1234) = true :=
  ⟨at200_fetchable _, after_next (by decide)⟩

theorem witness_CycleEndsWithDisplayPush_changed :
    (at200 0x6A9C).fetchable ∧ decodeWord (at200 0x6A9C).wordAtPc = .ok (.ldVxKk 10 0x9C) ∧
    ∃ u, exec (.ldVxKk 10 0x9C) ((at200 0x6A9C).afterFetch 0) = .next u ∧ (u.faultCause == none && u.displayChanged) = true :=
  ⟨at200_fetchable _, by decide, after_next (by decide)⟩

/-- The same, after a push. -/
def quiet200 (w : Nat) : State := { at200 w with displayChanged := false }

theorem witness_CycleEndsWithDisplayPush_unchanged :
    (quiet200 0x6A9C).fetchable ∧ decodeWord (quiet200 0x6A9C).wordAtPc = .ok (.ldVxKk 10 0x9C) ∧
    ∃ u, exec (.ldVxKk 10 0x9C) ((quiet200 0x6A9C).afterFetch 0) = .next u ∧
      (u.faultCause == none && !u.displayChanged) = true :=
  ⟨⟨Or.inl rfl, by decide⟩, by decide, after_next (by decide)⟩

theorem witness_CycleEndsWithDisplayPush_fault :
    (at200 0x00EE).fetchable ∧ decodeWord (at200 0x00EE).wordAtPc = .ok .ret ∧
    ∃ u, exec .ret ((at200 0x00EE).afterFetch 0) = .next u ∧ (u.faultCause != none) = true :=
  ⟨at200_fetchable _, by decide, after_next (by decide)⟩

theorem witness_FlagSettingArithmetic : (15 : Reg) = 15 ∧ base.config.flagLast = true ∧
    (withConfig fun c => { c with flagLast := false }).config.flagLast = false := by decide

theorem witness_RegisterLoadsAndLogic : base.config.logicVfReset = false ∧
    (withConfig fun c => { c with logicVfReset := true }).config.logicVfReset = true ∧
    (((.orVxVy 15 1 : Instr) = .orVxVy 15 1 ∧ (0 : Byte) = base.getV 15 ||| base.getV 1)) := by decide

theorem witness_SkipsCompareAndSkip : base.getV 0 = 0 ∧ base.getV 0 ≠ 1 ∧ base.getV 0 = base.getV 1 ∧
    (withRegs [(1, 2)]).getV 0 ≠ (withRegs [(1, 2)]).getV 1 := by decide

theorem witness_CallPushesReturnAddress : base.sp.toNat < 16 ∧ (base.setSp 15).sp.toNat < 16 ∧
    (base.setSp 16).sp.toNat = 16 := by decide

theorem witness_RetPopsReturnAddress : (0 < (base.setSp 1).sp.toNat ∧ (base.setSp 1).sp.toNat ≤ 16) ∧
    (0 < (base.setSp 16).sp.toNat ∧ (base.setSp 16).sp.toNat ≤ 16) ∧ base.sp.toNat = 0 := by decide

theorem witness_CallsReturnInReverseOrder : (base.setSp 14).sp.toNat ≤ 14 ∧ base.sp.toNat ≤ 14 ∧ base.sp = 0 := by decide

theorem witness_ExitStopsTheEngine : base.faultCause = none := rfl

theorem witness_DrwDrawsRows : (atI 0xFF1).Inv ∧ 0 < (15 : Nibble).val ∧ (atI 0xFF1).i.toNat + ((15 : Nibble).val - 1) ≤ 0xFFF :=
  ⟨wf_nil_pair _ rfl rfl (by decide), by decide, by decide⟩

/-- Extended mode at a data address. -/
def wideAt (w : Word) : State := { atI w with extendedMode := true }

/-- Normal mode with another `DRW0_NORMAL`, at a data address. -/
def drw0At (d : Drw0Normal) (w : Word) : State := { atI w with config := { Config.default with drw0Normal := d } }

theorem witness_DrwDrawsWideRows : (wideAt 0xFE0).Inv ∧
    ((wideAt 0xFE0).extendedMode = true ∨ (wideAt 0xFE0).config.drw0Normal = .sprite16) ∧
    (wideAt 0xFE0).i.toNat + 31 ≤ 0xFFF :=
  ⟨wf_nil_pair _ rfl rfl (by decide), Or.inl rfl, by decide⟩

theorem witness_DrwDrawsWideRows_normal : (drw0At .sprite16 0xFE0).Inv ∧
    ((drw0At .sprite16 0xFE0).extendedMode = true ∨ (drw0At .sprite16 0xFE0).config.drw0Normal = .sprite16) ∧
    (drw0At .sprite16 0xFE0).i.toNat + 31 ≤ 0xFFF :=
  ⟨wf_nil_pair _ rfl rfl (by decide), Or.inr rfl, by decide⟩

theorem witness_DrwChecksBeforeDrawing_rows : 0 < (15 : Nibble).val ∧ 0xFFF < (atI 0xFF2).i.toNat + ((15 : Nibble).val - 1) := by
  decide
theorem witness_DrwChecksBeforeDrawing_wide :
    ((wideAt 0xFE1).extendedMode = true ∨ (wideAt 0xFE1).config.drw0Normal = .sprite16) ∧ 0xFFF < (wideAt 0xFE1).i.toNat + 31 := by
  decide
theorem witness_DrwChecksBeforeDrawing_mode : base.extendedMode = false ∧ base.config.drw0Normal = .fault := by decide
theorem witness_DrwChecksBeforeDrawing_nothing :
    (drw0At .nothing 0).extendedMode = false ∧ (drw0At .nothing 0).config.drw0Normal = .nothing := by decide

theorem witness_DrwTwiceRestoresThePicture : (atI 0xFF1).Inv ∧ (0 : Reg) ≠ 15 ∧ (1 : Reg) ≠ 15 ∧ 0 < (15 : Nibble).val ∧
    (atI 0xFF1).i.toNat + ((15 : Nibble).val - 1) ≤ 0xFFF :=
  ⟨wf_nil_pair _ rfl rfl (by decide), by decide, by decide, by decide, by decide⟩

/-- Normal mode with another `SCD_NORMAL`. -/
def scdOf (d : ScdNormal) : State := withConfig fun c => { c with scdNormal := d }

theorem witness_ScdScrollsDown :
    ((wideAt 0).extendedMode = true ∨ (wideAt 0).config.scdNormal = .scroll) ∧ (scdOf .scroll).config.scdNormal = .scroll ∧
    ((scdOf .noop).extendedMode = false ∧ (scdOf .noop).config.scdNormal = .noop) ∧
    (base.extendedMode = false ∧ base.config.scdNormal = .fault) := by decide

theorem witness_ScdScrollsDown_pixel : 127 < (wideAt 0).width ∧ 63 < (wideAt 0).height ∧
    (wideAt 0).width * (wideAt 0).height ≤ 8192 ∧ base.width * base.height ≤ 2048 := by decide

theorem witness_SidewaysScrolls : 63 < base.width ∧ 31 < base.height ∧ base.width * base.height ≤ 2048 := by decide

theorem witness_ClsClearsThePicture : 2047 < base.width * base.height ∧ base.width * base.height ≤ 2048 := by decide

theorem witness_ModeSwitches : base.extendedMode = false ∧ (wideAt 0).extendedMode = true := by decide

theorem witness_KeySkips : ((withRegs [(1, 15)]).getV 1).toNat < 16 ∧ 16 ≤ ((withRegs [(1, 16)]).getV 1).toNat := by decide

theorem witness_KeyWait_none : ∀ k (_ : k < 16), base.keyboard[k] = false := by decide

/-- The keyboard with key 15 only. -/
def key15 : State := { base with keyboard := held [15] }

theorem witness_KeyWait_first : (State.keyboard { base with keyboard := held [0] })[0] = true := by decide
theorem witness_KeyWait_last : key15.keyboard[15] = true ∧ ∀ j (_ : j < 15), key15.keyboard[j] = false := by decide

theorem witness_IndexLoadAndAdd : base.config.addiVf = .sumAboveByteMax ∧
    (withConfig fun c => { c with addiVf := .other }).config.addiVf = .other := by decide

theorem witness_GlyphAddresses : ((withRegs [(4, 15)]).getV 4).toNat < 16 ∧ 16 ≤ ((withRegs [(4, 16)]).getV 4).toNat ∧
    ((.ldFVx 4 : Instr) = .ldFVx 4 ∨ (.ldFVx 4 : Instr) = .ldHfVx 4) := by decide

theorem witness_BcdStore : (atI 0xFFD).Inv ∧ (atI 0xFFD).i.toNat + 2 ≤ 0xFFF ∧ (atI 0xFFE).Inv ∧ 0xFFF < (atI 0xFFE).i.toNat + 2 :=
  ⟨wf_nil_pair _ rfl rfl (by decide), by decide, wf_nil_pair _ rfl rfl (by decide), by decide⟩

theorem witness_RegisterStore : (atI 0xFF0).Inv ∧ (atI 0xFF0).i.toNat + (15 : Reg).val ≤ 0xFFF ∧ (atI 0xFF1).Inv ∧
    0xFFF < (atI 0xFF1).i.toNat + (15 : Reg).val ∧ (atI 0xFFF).i.toNat + (0 : Reg).val ≤ 0xFFF :=
  ⟨wf_nil_pair _ rfl rfl (by decide), by decide, wf_nil_pair _ rfl rfl (by decide), by decide, by decide⟩

theorem witness_RegisterLoad : (atI 0xFF0).i.toNat + (15 : Reg).val ≤ 0xFFF ∧ 0xFFF < (atI 0xFF1).i.toNat + (15 : Reg).val ∧
    (withConfig fun c => { c with loadStoreI := .plusXPlus1 }).config.loadStoreI = .plusXPlus1 := by decide

theorem witness_RplCopies : (7 : Reg).val < 8 ∧ 8 ≤ (8 : Reg).val ∧
    ((.ldRVx 8 : Instr) = .ldRVx 8 ∨ (.ldRVx 8 : Instr) = .ldVxR 8) := by decide

theorem witness_StoreIsSeenByNextFetch : (atI 0xFF0).Inv ∧ (atI 0xFF0).i.toNat + (15 : Reg).val ≤ 0xFFF ∧
    (14 : Reg).val < (15 : Reg).val ∧ (0 : Reg).val < (15 : Reg).val :=
  ⟨wf_nil_pair _ rfl rfl (by decide), by decide, by decide, by decide⟩

theorem witness_FaultsArePrecise : base.faultCause = none ∧
    ∃ t, exec .ret base = .next t ∧ (t.faultCause == some .stackUnderflow) = true :=
  ⟨rfl, after_next (by decide)⟩

/-- The handler raises the cause. -/
def raises (i : Instr) (s : State) (c : FaultCause) : Bool := s.faultCause == none && after (exec i s) fun t => t.faultCause == some c

theorem witness_FaultCausesHaveTheirInstructions :
    raises (.call 0) (base.setSp 16) .stackOverflow = true ∧ raises .ret base .stackUnderflow = true ∧
    raises (.ldFVx 4) (withRegs [(4, 16)]) .glyphRangeFault = true ∧
    raises (.ldHfVx 4) (withRegs [(4, 16)]) .glyphRangeFault = true ∧ raises (.ldRVx 8) base .rplRangeFault = true ∧
    raises (.ldVxR 8) base .rplRangeFault = true ∧ raises (.drwVxVyN 0 1 15) (atI 0xFF2) .memRangeFault = true ∧
    raises (.drwVxVyN 0 1 0) (wideAt 0xFE1) .memRangeFault = true ∧ raises (.ldBVx 0) (atI 0xFFE) .memRangeFault = true ∧
    raises (.ldMemVx 15) (atI 0xFF1) .memRangeFault = true ∧ raises (.ldVxMem 15) (atI 0xFF1) .memRangeFault = true ∧
    raises (.skpVx 1) (withRegs [(1, 16)]) .keyRangeFault = true ∧ raises (.sknpVx 1) (withRegs [(1, 16)]) .keyRangeFault = true ∧
    raises (.drwVxVyN 0 1 0) (drw0At .sprite16 0xFE1) .memRangeFault = true ∧
    raises (.drwVxVyN 0 1 0) base .modeFault = true ∧ raises (.scd 1) base .modeFault = true := by decide

/-- Each field that some instruction writes is changed by one. -/
theorem witness_OnlyTheirInstructionsWrite :
    after (exec (.call 0) base) (fun t => t.sp != base.sp && t.stack[0] == 0x200) = true ∧
    after (exec (.ldRVx 0) (withRegs [(0, 1)])) (fun t => t.r != base.r) = true ∧
    after (exec .high base) (fun t => t.extendedMode != base.extendedMode) = true ∧
    after (exec .exit base) (fun t => t.exited != base.exited) = true ∧
    after (exec (.ldDtVx 0) (withRegs [(0, 1)])) (fun t => t.dt != base.dt) = true ∧
    after (exec (.ldStVx 0) (withRegs [(0, 1)])) (fun t => t.st != base.st) = true ∧
    after (exec (.ldMemVx 0) ((atI 0x300).setV 0 1)) (fun t => t.readByte 0x300 != base.readByte 0x300) = true ∧
    after (exec (.ldINnn 1) base) (fun t => t.i != base.i) = true ∧
    after (exec (.drwVxVyN 0 1 5) base) (fun t => t.pixels != base.pixels) = true := by decide

theorem witness_NoInstructionReadsTheSoundTimer : ∀ x, (.ldVxDt 0 : Instr) ≠ .ldStVx x := by decide

theorem witness_PcAfterTheHandler :
    (atPc 0xFFE).fetchable ∧
    (∃ t, cycle 0 ((atPc 0xFFE).withFetchWord 16 0x00E0) = .next t ∧ (t.pc == 0x1000) = true) ∧
    (at200 0x3000).fetchable ∧ decodeWord (at200 0x3000).wordAtPc = .ok (.seVxKk 0 0) ∧
    (∃ t, cycle 0 (at200 0x3000) = .next t ∧ (t.pc == 0x204) = true) ∧
    (∃ t, cycle 0 (((base.setSp 16).setStack 15 0x302).withFetchWord 16 0x00EE) = .next t ∧ (t.pc == 0x302) = true) ∧
    ∃ t, cycle 0 (at200 0xF20A) = .next t ∧ (t.pc == 0x200) = true :=
  ⟨fetchable_even (by decide) (by decide), after_next (by decide), at200_fetchable _, by decide, after_next (by decide),
    after_next (by decide), after_next (by decide)⟩

theorem witness_OnlyImpossibleDepthsStop : 16 < (base.setSp 17).sp.toNat ∧
    stops (exec .ret (base.setSp 17)) .stackDepthImpossible = true ∧
    stops (exec (.call 0) (base.setSp 255)) .stackDepthImpossible = true := by decide

theorem witness_Beep : (base.setSt 1).st.toNat = 1 ∧ base.st.toNat ≠ 1 ∧ (base.setSt 2).st.toNat ≠ 1 := by decide

/-- A machine with a fault recorded. -/
def broken : State := base.raise .decodeFault ⟨0, 0⟩

theorem witness_TickOrder_stopped : base.setExited.engine = .exited ∧ broken.engine = .faulted := by decide
theorem witness_TickOrder_idle : (pause true base).engine = .paused ∧ base.engine = .running ∧
    TickInput.cycleDue { quietTick with cycleDue := false } = false := by decide

/-- What a tick runs on, its keys sampled. -/
def sampled (w : Nat) : State := { at200 w with keyboard := quietTick.keys }

theorem witness_TickOrder_cycle : (at200 0x6A9C).engine = .running ∧ quietTick.cycleDue = true ∧
    (∃ u, cycle quietTick.rnd (sampled 0x6A9C) = .next u ∧ (u.engine == .running) = true) ∧
    (∃ u, cycle quietTick.rnd (sampled 0x00FD) = .next u ∧ (u.engine == .exited) = true) ∧
    ∃ u, cycle quietTick.rnd (sampled 0x8008) = .next u ∧ (u.engine == .faulted) = true :=
  ⟨by decide, rfl, after_next (by decide), after_next (by decide), after_next (by decide)⟩

theorem witness_KeyboardIsSampledByTicksOnly :
    (∃ t, perform (.tick { quietTick with keys := held [4] }) (at200 0xF20A) = .next t ∧ (t.getV 2 == 4) = true) ∧
    (at200 0xF20A).live = true ∧ base.setExited.live = false ∧
    (∃ t, perform (.tick quietTick) base.setExited = .next t ∧ t.exited = true) ∧
    (∃ t, perform (.singleStep 0) key15 = .next t ∧ (t.keyboard[15] == true) = true) ∧
    (∃ t, perform (.pause true) key15 = .next t ∧ t.paused = true) ∧
    (∃ t, perform (.saveState false) key15 = .next t ∧ (t.outputs == [.ioError]) = true) ∧
    (∃ t, perform (.loadProgram (some [])) key15 = .next t ∧ (t.keyboard[15] == false) = true) ∧
    ∃ t, perform (.loadState none) key15 = .next t ∧ (t.outputs == [.ioError]) = true :=
  ⟨after_next (by decide), by decide, by decide, after_next (by decide), after_next (by decide), after_next (by decide),
    after_next (by decide), after_next (by decide), after_next (by decide)⟩

/-- The stream of a machine with everything 0. -/
def zeros : List Byte := List.replicate 12353 0

theorem zeros_getD (k : Nat) : zeros.getD k 0 = 0 := by
  simp only [zeros, List.getD_eq_getElem?_getD, List.getElem?_replicate]
  split <;> rfl

theorem witness_LoadState_valid : zeros.length = 12353 ∧ zeros.getD 20 0 ≤ 16 ∧ zeros.getD 4159 0 ≤ 1 ∧
    zeros.getD 12352 0 ≤ 1 ∧ ∀ k, k < 8192 → zeros.getD (4160 + k) 0 ≤ 1 :=
  ⟨List.length_replicate, by rw [zeros_getD]; decide, by rw [zeros_getD]; decide, by rw [zeros_getD]; decide,
    fun k _ => by rw [zeros_getD]; decide⟩

/-- `SP` = 16 is still valid, 17 is not. -/
theorem witness_LoadState_depth : (zeros.set 20 16).getD 20 0 ≤ 16 ∧ ¬ (zeros.set 20 17).getD 20 0 ≤ 16 := by decide

theorem witness_LoadState_invalid : ¬ (List.length ([] : List Byte) = 12353) := by decide

theorem zeros_valid : validStream zeros.toArray = true := by
  have hz : ∀ k, zeros.toArray.getD k 0 = 0 := fun k => by
    have h := zeros_getD k
    rw [List.getD_eq_getElem?_getD] at h
    rw [Array.getD_eq_getD_getElem?, List.getElem?_toArray]
    exact h
  have hl : zeros.toArray.size = 12353 := by rw [List.size_toArray]; exact List.length_replicate
  simp only [validStream, hz, hl]
  simp

theorem witness_TerminalStatesStay : (base.setExited.exited = true ∨ base.setExited.faultCause ≠ none) ∧
    (broken.exited = true ∨ broken.faultCause ≠ none) ∧ base.setExited.pending = [] ∧
    (List.replicate 3584 (0 : Byte)).length ≤ 3584 ∧ validStream zeros.toArray = true :=
  ⟨by decide, by decide, rfl, by rw [List.length_replicate], zeros_valid⟩

/-- The loads accepted and refused, at the limit of each: the hypotheses of the load clauses. -/
theorem witness_KeyboardIsSampledByTicksOnly_loads :
    (∃ t, perform (.loadProgram (some (List.replicate 3584 0))) key15 = .next t) ∧
    (∃ bytes, some (List.replicate 3584 (0 : Byte)) = some bytes ∧ bytes.length ≤ 3584) ∧
    (¬ ∃ bytes, some (List.replicate 3585 (0 : Byte)) = some bytes ∧ bytes.length ≤ 3584) ∧
    (∃ t, perform (.loadState (some zeros)) key15 = .next t) ∧
    (∃ bytes, some zeros = some bytes ∧ validStream bytes.toArray = true) ∧
    (¬ ∃ bytes, some ([] : List Byte) = some bytes ∧ validStream bytes.toArray = true) := by
  refine ⟨⟨_, rfl⟩, ⟨_, rfl, by rw [List.length_replicate]⟩, ?_, ⟨_, rfl⟩, ⟨_, rfl, zeros_valid⟩, ?_⟩
  · rintro ⟨_, h, hb⟩
    cases h
    rw [List.length_replicate] at hb
    omega
  · rintro ⟨_, h, hb⟩
    cases h
    exact absurd hb (by decide)

theorem witness_PauseAndSingleStep : base.live = true := by decide

theorem witness_LoadProgramLoadsTheImage : (List.replicate 3584 (0xAB : Byte)).length ≤ 3584 ∧
    3584 < (List.replicate 3585 (0xAB : Byte)).length ∧ base.config.rPersist = false ∧
    (withConfig fun c => { c with rPersist := true }).config.rPersist = true :=
  ⟨by rw [List.length_replicate], by rw [List.length_replicate]; decide, rfl, rfl⟩

theorem witness_SaveLoadRoundTrip : base.Inv ∧ (wideAt 0x300).config = base.config := ⟨base_inv, rfl⟩

theorem witness_StepKeepsInvariant : base.Inv ∧ ∃ t, step base = .next t ∧ (t.faultCause == some .decodeFault) = true :=
  ⟨base_inv, after_next (by decide)⟩

theorem witness_StepNeverStops : base.Inv := base_inv

theorem witness_StepNeverStops_sys : (sys200 0x0FFF).Inv ∧ (sys200 0x0FFF).config.hasSys = true ∧ (sys200 0x0FFF).live = true ∧
    (sys200 0x0FFF).fetchable ∧ (sys200 0x0FFF).wordAtPc.toNat < 0x1000 ∧
    refuses (step (sys200 0x0FFF)) .sysNotDescribed = true :=
  ⟨⟨by decide, by decide, by decide⟩, by decide, by decide, sys200_fetchable _, by decide, by decide⟩

theorem witness_ConfigurationNeverChanges : ∃ t, step (at200 0x6A9C) = .next t ∧ (t.getV 10 == 0x9C) = true :=
  after_next (by decide)

/-- A tick with both inputs due, and the schedule that calls it for ever. -/
def fullTick : HostOp := .tick { quietTick with timerDue := true }

def fullSchedule : Nat → HostOp := fun _ => fullTick

theorem fullSchedule_fair : WeaklyFair fullSchedule ∧ ∀ n, (fullSchedule n).isTick = true :=
  ⟨fun _ => ⟨fun n => ⟨n, le_rfl, rfl⟩, fun n => ⟨n, le_rfl, rfl⟩⟩, fun _ => rfl⟩

/-- A run from a state that its first tick brings to a state at rest. -/
def settles (s t : State) : Nat → State
  | 0 => s
  | _ + 1 => t

theorem settles_run {s t : State} (h : step (s.withPending [fullTick]) = .next t)
    (ht : step (t.withPending [fullTick]) = .next t) : HostRun fullSchedule (settles s t) := by
  intro n
  cases n with
  | zero => exact h
  | succ n => exact ht

/-- The outcome is exactly this next state. -/
theorem next_of_after {o : Result} {t : State} (h : after o (fun u => decide (u = t)) = true) : o = .next t := by
  obtain ⟨u, hu, hp⟩ := after_next h
  rw [hu, of_decide_eq_true hp]

/-- Paused, with `DT` one step from 0. -/
def pausedAt (dt : Byte) : State := { base with paused := true, dt := dt }

theorem witness_FairTicksMakeProgress_paused :
    HostRun fullSchedule (settles (pausedAt 1) (pausedAt 0)) ∧ WeaklyFair fullSchedule ∧
    (∀ n, (fullSchedule n).isTick = true) ∧ (settles (pausedAt 1) (pausedAt 0) 0).engine = .paused :=
  ⟨settles_run (next_of_after (by decide)) (next_of_after (by decide)), fullSchedule_fair.1, fullSchedule_fair.2, rfl⟩

/-- The same with a beep on the way. -/
theorem witness_FairTicksMakeProgress_beep :
    HostRun fullSchedule (settles ((pausedAt 0).setSt 1)
      ((pausedAt 0).emit (.beep Config.beepFreqHz Config.beepDurationMs))) ∧ ((pausedAt 0).setSt 1).st ≠ 0 :=
  ⟨settles_run rfl rfl, by decide⟩

/-- A machine that jumps to itself, after its first cycle. -/
def spinning : State := { at200 0x1200 with ir := 0x1200, displayChanged := false, outputs := [.updateDisplay false []] }

theorem witness_FairTicksMakeProgress_running :
    HostRun fullSchedule (settles (at200 0x1200) spinning) ∧ WeaklyFair fullSchedule ∧
    (∀ n, (fullSchedule n).isTick = true) ∧ (settles (at200 0x1200) spinning 0).engine = .running :=
  ⟨settles_run (next_of_after (by decide)) (next_of_after (by decide)), fullSchedule_fair.1, fullSchedule_fair.2, rfl⟩

end Sys2Proof.Tests
end

section
/-! The instruction register over a cycle (R82, R111): fetch writes it, and neither a handler, nor a fault, nor the display push
does. -/

namespace Sys2Proof.Machine

/-! ### The two bytes of a joined word -/

/-- Bits 15..8 of a joined word are its first byte (R82). -/
theorem extractLsb_joinBytes_high (hi lo : Byte) : (joinBytes hi lo).extractLsb 15 8 = hi := by
  apply BitVec.eq_of_toNat_eq
  rw [BitVec.extractLsb_toNat, joinBytes_toNat]
  omega

/-- Bits 7..0 of a joined word are its second byte (R82). -/
theorem extractLsb_joinBytes_low (hi lo : Byte) : (joinBytes hi lo).extractLsb 7 0 = lo := by
  apply BitVec.eq_of_toNat_eq
  rw [BitVec.extractLsb_toNat, joinBytes_toNat]
  omega

/-! ### The shared operations keep `IR` -/

namespace State

variable (s : State)

@[simp] theorem skipIf_ir (c : Bool) : (s.skipIf c).ir = s.ir := by rw [skipIf_eq, setPc_ir]

@[simp] theorem afterLoadStore_ir (x : Reg) : (s.afterLoadStore x).ir = s.ir := by rw [afterLoadStore_eq, setI_ir]

@[simp] theorem writeFlagged_ir (x : Reg) (f : Flagged) : (s.writeFlagged x f).ir = s.ir := by rw [writeFlagged_eq]

@[simp] theorem writeLogic_ir (x : Reg) (b : Byte) : (s.writeLogic x b).ir = s.ir := by rw [writeLogic_eq]

@[simp] theorem drawSprite_ir (xs ys : Byte) (rows cols : Nat) (rowbits : Nat → Nat) :
    (s.drawSprite xs ys rows cols rowbits).ir = s.ir := by rw [drawSprite_eq]

@[simp] theorem drawRows8_ir (x y : Reg) (n : Nat) : (s.drawRows8 x y n).ir = s.ir := by
  unfold drawRows8
  split <;> simp

@[simp] theorem drawRows16_ir (x y : Reg) : (s.drawRows16 x y).ir = s.ir := by
  unfold drawRows16
  split <;> simp

@[simp] theorem scrollDownBy_ir (n : Nat) : (s.scrollDownBy n).ir = s.ir := rfl

@[simp] theorem pushDisplay_ir : s.pushDisplay.ir = s.ir := by rw [pushDisplay_eq]

end State

/-! ### The handlers keep `IR`

First those whose outcome depends on the state, then the dispatch. -/

theorem execRet_ir {s t : State} (h : execRet s = .next t) : t.ir = s.ir := by
  unfold execRet at h
  split_ifs at h <;> cases h <;> simp

theorem execCall_ir {nnn : Addr} {s t : State} (h : execCall nnn s = .next t) : t.ir = s.ir := by
  unfold execCall at h
  split_ifs at h <;> cases h <;> simp

theorem execDrwVxVyN_ir {x y : Reg} {n : Nibble} {s t : State} (h : execDrwVxVyN x y n s = .next t) : t.ir = s.ir := by
  unfold execDrwVxVyN at h
  split_ifs at h
  · cases h; simp
  · cases h; simp
  · split at h <;> cases h <;> simp

theorem execScd_ir {n : Nibble} {s t : State} (h : execScd n s = .next t) : t.ir = s.ir := by
  unfold execScd at h
  split_ifs at h
  · cases h; simp
  · split at h <;> cases h <;> simp

theorem execLdVxK_ir {x : Reg} {s t : State} (h : execLdVxK x s = .next t) : t.ir = s.ir := by
  obtain rfl := Host.Outcome.next.inj h
  split <;> simp

/-- No handler writes `IR`: apart from the five above, each answers one update of the state, or chooses between two of them
(often the second is a fault raised). -/
theorem exec_ir {i : Instr} {s t : State} (h : exec i s = .next t) : t.ir = s.ir := by
  cases i with
  | ret => exact execRet_ir h
  | call nnn => exact execCall_ir h
  | drwVxVyN x y n => exact execDrwVxVyN_ir h
  | scd n => exact execScd_ir h
  | ldVxK x => exact execLdVxK_ir h
  | _ =>
    obtain rfl := Host.Outcome.next.inj h
    simp [apply_ite State.ir]

/-! ### The cycle -/

/-- Once the fetch checks pass, `IR` ends the cycle as the word at `PC` (R111), whether the word decodes or not. -/
theorem cycle_ir {rnd : Byte} {s t : State} (hf : s.fetchable) (h : cycle rnd s = .next t) : t.ir = s.wordAtPc := by
  rcases cycle_next h with ⟨f, hfault, -⟩ | ⟨-, -, rfl⟩ | ⟨-, i, u, -, hu, rfl⟩
  · rw [(fetchFault_eq_none_iff s).2 hf] at hfault
    cases hfault
  · rfl
  · calc (if u.faultCause.isSome then u else u.pushDisplay).ir
      _ = u.ir := by split <;> simp
      _ = s.wordAtPc := exec_ir hu

/-- Settles O12: `IR` ends the cycle as the joined bytes at `PC` and `PC + 1`, which its two halves give back. -/
theorem fetchIsBigEndian : Obligations.FetchIsBigEndian := by
  intro rnd s t hf h
  rw [cycle_ir hf h]
  exact ⟨extractLsb_joinBytes_high _ _, extractLsb_joinBytes_low _ _⟩

end Sys2Proof.Machine
end

section
/-! The flag-setting arithmetic of the ALU path (R157 to R161): the words with the fields X and Y are decoded, each result and
its flag are said as numbers, and the write step is the effect that the statement describes. -/

namespace Sys2Proof

/-! ### The decoder answers with the one row that selects the word -/

/-- Two rows disagree on a bit that both masks fix. -/
abbrev Row.Disagrees (r r' : Row) : Prop := r.pattern &&& r'.mask ≠ r'.pattern &&& r.mask

/-- So no word can match two rows of the table, and the order of the scan does not matter (R114, R120). -/
theorem table_pairwise_disagrees : table.Pairwise Row.Disagrees := by decide

/-- A row that selects a word agrees with the word on the bits that it and another mask fix. -/
theorem Row.pattern_and_of_selects {r : Row} {w : Word} (h : r.selects w = true) (m : Word) :
    r.pattern &&& m = w &&& r.mask &&& m := by
  rw [← eq_of_beq h]

/-- Two rows that select one word are the same row. -/
theorem eq_of_selects {r r' : Row} {w : Word} (hr : r ∈ table) (hr' : r' ∈ table) (h : r.selects w = true)
    (h' : r'.selects w = true) : r = r' := by
  by_contra hne
  have : Std.Symm Row.Disagrees := ⟨fun _ _ => Ne.symm⟩
  refine table_pairwise_disagrees.forall hr hr' hne ?_
  rw [Row.pattern_and_of_selects h, Row.pattern_and_of_selects h', BitVec.and_assoc, BitVec.and_assoc,
    BitVec.and_comm r.mask]

/-- A word that a row selects is decoded by that row, wherever it stands in the table (R114). -/
theorem decodeWord_of_selects {r : Row} {w : Word} (hr : r ∈ table) (h : r.selects w = true) :
    decodeWord w = .ok (r.build w) := by
  unfold decodeWord
  split
  · next r' hfind =>
    rw [eq_of_selects (List.mem_of_find?_eq_some hfind) hr (List.find?_some (p := fun r : Row => r.selects w) hfind) h]
  · next hnone => exact absurd h (List.find?_eq_none.1 hnone r hr)

/-- The word of a row of format XY (R118), X and Y in their fields, decodes to the row's instruction with X and Y. -/
theorem decodeWord_xy (k : Nat) (hk : k < table.length) (hm : table[k].mask = 0xF00F#16)
    (hp : table[k].pattern.toNat % 4096 < 16) {c : Reg → Reg → Instr}
    (hb : ∀ w, table[k].build w = c (fieldX w) (fieldY w)) (x y : Reg) :
    decodeWord (BitVec.ofNat 16 (table[k].pattern.toNat + 256 * x.val + 16 * y.val)) = .ok (c x y) := by
  have hlt := table[k].pattern.isLt
  have hw : (BitVec.ofNat 16 (table[k].pattern.toNat + 256 * x.val + 16 * y.val)).toNat =
      table[k].pattern.toNat + 256 * x.val + 16 * y.val := Nat.mod_eq_of_lt (by omega)
  generalize BitVec.ofNat 16 (table[k].pattern.toNat + 256 * x.val + 16 * y.val) = w at hw ⊢
  have hs : table[k].selects w = true := by
    rw [Row.selects, beq_word, hm, toNat_and_F00F, hw]
    exact decide_eq_true (by omega)
  have hx : fieldX w = x := Fin.ext (by rw [fieldX_val]; omega)
  have hy : fieldY w = y := Fin.ext (by rw [fieldY_val]; omega)
  rw [decodeWord_of_selects (List.getElem_mem hk) hs, hb, hx, hy]

end Sys2Proof

namespace Sys2Proof.Machine

/-! ### Results and flags as numbers (R163) -/

theorem flagByte_toNat (f : Bool) : (flagByte f).toNat = f.toNat := by cases f <;> rfl

/-- A comparison as a byte of VF. -/
theorem flagByte_decide_toNat (p : Prop) [Decidable p] : (flagByte (decide p)).toNat = if p then 1 else 0 := by
  by_cases h : p <;> simp [h, flagByte]

/-- Bit 0 of a byte, as a byte of VF. -/
theorem flagByte_bit0_toNat (a : Byte) : (flagByte (a.getLsbD 0)).toNat = a.toNat % 2 := by
  rw [flagByte_toNat, BitVec.getLsbD, Nat.toNat_testBit, Nat.pow_zero, Nat.div_one]

/-- Bit 7 of a byte, as a byte of VF: the quotient is already 0 or 1. -/
theorem flagByte_bit7_toNat (a : Byte) : (flagByte (a.getLsbD 7)).toNat = a.toNat / 128 := by
  rw [flagByte_toNat, BitVec.getLsbD, Nat.toNat_testBit]
  omega

theorem byte_shr_toNat (a : Byte) : (a >>> 1).toNat = a.toNat / 2 := by
  rw [BitVec.toNat_ushiftRight, Nat.shiftRight_eq_div_pow, Nat.pow_one]

theorem byte_shl_toNat (a : Byte) : (a <<< 1).toNat = a.toNat * 2 % 256 := by
  rw [BitVec.toNat_shiftLeft, Nat.shiftLeft_eq, Nat.pow_one]

/-- A difference of bytes, with the borrow that wraps it kept above 0. -/
theorem byte_sub_toNat (a b : Byte) : (a - b).toNat = (a.toNat + 256 - b.toNat) % 256 := by
  rw [BitVec.toNat_sub]
  omega

/-! ### The write step -/

/-- A change of the general registers leaves every other field alone. -/
theorem unchangedBut_v (s : State) (v : Vector Byte 16) : unchangedBut [.v] s { s with v := v } := by
  intro f hf
  cases f with
  | v => exact absurd (List.mem_singleton_self _) hf
  | mem => exact fun _ => rfl
  | fault => exact ⟨rfl, rfl⟩
  | _ => rfl

/-- The write step of R150, for a result and a flag given as numbers. -/
theorem writesFlagged_writeFlagged (s : State) (x : Reg) {f : Flagged} {result flag : Nat}
    (hr : f.result.toNat = result) (hf : (flagByte f.flag).toNat = flag) :
    writesFlagged x result flag s (s.writeFlagged x f) := by
  subst hr hf
  have hget (r : Reg) : (s.writeFlagged x f).getV r =
      if r = 15 then (if x = 15 ∧ s.config.flagLast = false then f.result else flagByte f.flag)
      else if r = x then f.result else s.getV r := s.getV_writeFlagged x f r
  refine ⟨?_, ?_, ?_, ?_, ?_⟩
  · intro r hrx hr15
    rw [hget, if_neg hr15, if_neg hrx]
  · intro hx
    simp [hget, hx]
  · intro _ hlast
    simp [hget, hlast]
  · intro hx hlast
    rw [hget, if_pos rfl, if_pos ⟨hx, hlast⟩]
  · rw [State.writeFlagged_eq]
    exact unchangedBut_v _ _

/-- Settles O14: each of the five words decodes by its row of the table, and its handler is one write step. -/
theorem flagSettingArithmetic : Obligations.FlagSettingArithmetic := by
  intro x y s
  refine ⟨⟨decodeWord_xy 19 (by decide) rfl (by decide) (fun _ => rfl) x y, _, rfl, ?add⟩,
    ⟨decodeWord_xy 20 (by decide) rfl (by decide) (fun _ => rfl) x y, _, rfl, ?sub⟩,
    ⟨decodeWord_xy 21 (by decide) rfl (by decide) (fun _ => rfl) x y, _, rfl, ?shr⟩,
    ⟨decodeWord_xy 22 (by decide) rfl (by decide) (fun _ => rfl) x y, _, rfl, ?subn⟩,
    ⟨decodeWord_xy 23 (by decide) rfl (by decide) (fun _ => rfl) x y, _, rfl, ?shl⟩⟩
  case add => exact writesFlagged_writeFlagged s x (BitVec.toNat_add _ _) (flagByte_decide_toNat _)
  case sub | subn => exact writesFlagged_writeFlagged s x (byte_sub_toNat _ _) (flagByte_decide_toNat _)
  case shr => exact writesFlagged_writeFlagged s x (byte_shr_toNat _) (flagByte_bit0_toNat _)
  case shl => exact writesFlagged_writeFlagged s x (byte_shl_toNat _) (flagByte_bit7_toNat _)

end Sys2Proof.Machine
end

section
/-! The mode switches (R188 to R190): the one shared operation, which both instructions perform exactly when the mode changes. -/

namespace Sys2Proof.Machine

/-! ### The shared operation (R188) -/

/-- `MODE_SWITCH_CLEARS` zeroes every entry of the buffer, those outside the picture too; without it each is kept. -/
theorem lit_switchMode (s : State) (ext : Bool) (k : Nat) :
    Pixels.lit (s.switchMode ext).pixels k = (!s.config.modeSwitchClears && Pixels.lit s.pixels k) := by
  rw [State.switchMode_pixels]
  cases s.config.modeSwitchClears with
  | true => rfl
  | false => rfl

theorem unchangedBut_switchMode (s : State) (ext : Bool) :
    unchangedBut [.mode, .pixels, .displayChanged] s (s.switchMode ext) := by
  intro f hf
  cases f with
  | mode | pixels | displayChanged => simp at hf
  | mem => exact s.readByte_switchMode ext
  | fault => exact ⟨rfl, rfl⟩
  | _ => rfl

/-! ### The two instructions in each mode -/

section

variable {s : State}

/-- R189: from normal mode, the switch. -/
theorem exec_high_of_normal (h : s.extendedMode = false) : exec .high s = .next (s.switchMode true) := by
  change execHigh s = _
  simp [execHigh, h]

/-- R189: in extended mode, a no-op. -/
theorem exec_high_of_extended (h : s.extendedMode = true) : exec .high s = .next s := by
  change execHigh s = _
  simp [execHigh, h]

/-- R190: from extended mode, the switch. -/
theorem exec_low_of_extended (h : s.extendedMode = true) : exec .low s = .next (s.switchMode false) := by
  change execLow s = _
  simp [execLow, h]

/-- R190: in normal mode, a no-op. -/
theorem exec_low_of_normal (h : s.extendedMode = false) : exec .low s = .next s := by
  change execLow s = _
  simp [execLow, h]

end

/-- Settles O29: a switch that changes the mode is `State.switchMode`, and one to the current mode answers the same state. -/
theorem modeSwitches : Obligations.ModeSwitches := by
  refine ⟨by decide, by decide, fun s => ⟨fun h => ?high, fun h => ?low, exec_high_of_extended, exec_low_of_normal⟩⟩
  case high =>
    exact ⟨_, exec_high_of_normal h, rfl, rfl, rfl, rfl, lit_switchMode s true, unchangedBut_switchMode s true⟩
  case low =>
    exact ⟨_, exec_low_of_extended h, rfl, rfl, rfl, rfl, lit_switchMode s false, unchangedBut_switchMode s false⟩

end Sys2Proof.Machine
end

section
/-! The key load (R222): the word decodes by its row of the table, and the outcome turns on the lowest held key of the snapshot. -/

namespace Sys2Proof

/-- The word of a row of format X (R118), X in its field, decodes to the row's instruction with X. -/
theorem decodeWord_x (k : Nat) (hk : k < table.length) (hm : table[k].mask = 0xF0FF#16)
    (hp : table[k].pattern.toNat % 4096 < 256) {c : Reg → Instr} (hb : ∀ w, table[k].build w = c (fieldX w)) (x : Reg) :
    decodeWord (BitVec.ofNat 16 (table[k].pattern.toNat + 256 * x.val)) = .ok (c x) := by
  have hlt := table[k].pattern.isLt
  have hw : (BitVec.ofNat 16 (table[k].pattern.toNat + 256 * x.val)).toNat = table[k].pattern.toNat + 256 * x.val :=
    Nat.mod_eq_of_lt (by omega)
  generalize BitVec.ofNat 16 (table[k].pattern.toNat + 256 * x.val) = w at hw ⊢
  have hs : table[k].selects w = true := by
    rw [Row.selects, beq_word, hm, toNat_and_F0FF, hw]
    exact decide_eq_true (by omega)
  have hx : fieldX w = x := Fin.ext (by rw [fieldX_val]; omega)
  rw [decodeWord_of_selects (List.getElem_mem hk) hs, hb, hx]

end Sys2Proof

namespace Sys2Proof.Machine

/-! ### The lowest held key -/

namespace State

variable {s : State}

/-- With no key held there is no lowest one. -/
theorem lowestKey_eq_none (h : ∀ k (_ : k < 16), s.keyboard[k] = false) : s.lowestKey = none := by
  obtain ⟨hnone, -⟩ | ⟨k, hk, -, hheld, -⟩ := s.lowestKey_cases
  · exact hnone
  · exact absurd hheld (by simp [h k hk])

/-- A held key below which none is held is the lowest one. -/
theorem lowestKey_eq_some {k : Nat} (hk : k < 16) (hheld : s.keyboard[k] = true)
    (hbelow : ∀ j (_ : j < k), s.keyboard[j] = false) : s.lowestKey = some k := by
  obtain ⟨-, hnone⟩ | ⟨m, hm, hsome, hheld', hbelow'⟩ := s.lowestKey_cases
  · exact absurd hheld (by simp [hnone k hk])
  · obtain hlt | rfl | hgt := Nat.lt_trichotomy m k
    · exact absurd hheld' (by simp [hbelow m hlt])
    · exact hsome
    · exact absurd hheld (by simp [hbelow' k hgt])

end State

/-! ### The two outcomes -/

/-- A write of `PC` leaves every other field alone. -/
theorem unchangedBut_setPc (s : State) (w : Word) : unchangedBut [.pc] s (s.setPc w) := by
  intro f hf
  cases f with
  | pc => exact absurd (List.mem_singleton_self _) hf
  | mem => exact fun _ => rfl
  | fault => exact ⟨rfl, rfl⟩
  | _ => rfl

/-- `V[x] <- b` is the write of one general register. -/
theorem writesV_setV (s : State) (x : Reg) (b : Byte) : writesV x b s (s.setV x b) :=
  ⟨by simp, fun r hr => by simp [hr], unchangedBut_v s _⟩

/-- R222 without a held key: `PC` goes back to the instruction. -/
theorem exec_ldVxK_of_none {s : State} (x : Reg) (h : s.lowestKey = none) :
    exec (.ldVxK x) s = .next (s.setPc (s.pc - 2)) := by
  change execLdVxK x s = _
  simp [execLdVxK, h]

/-- R222 with a held key: its index is taken at once. -/
theorem exec_ldVxK_of_some {s : State} {k : Nat} (x : Reg) (h : s.lowestKey = some k) :
    exec (.ldVxK x) s = .next (s.setV x (BitVec.ofNat 8 k)) := by
  change execLdVxK x s = _
  simp [execLdVxK, h]

/-- Settles O31: the word is that of row 32, and the keys held in the snapshot decide between the two outcomes. -/
theorem keyWaitTakesTheLowestKey : Obligations.KeyWaitTakesTheLowestKey := by
  intro x s
  refine ⟨decodeWord_x 32 (by decide) rfl (by decide) (fun _ => rfl) x, fun hnone => ?none, fun k hk hheld hbelow => ?held⟩
  case none => exact ⟨_, exec_ldVxK_of_none x (State.lowestKey_eq_none hnone), rfl, unchangedBut_setPc s _⟩
  case held => exact ⟨_, exec_ldVxK_of_some x (State.lowestKey_eq_some hk hheld hbelow), writesV_setV s x _⟩

end Sys2Proof.Machine
end

section
/-! The glyph addresses and the RPL copies (R242, R243, R247, R248): each word decodes by its row of the table, and one check decides
between a single update of the state and a fault raised from the handler. -/

namespace Sys2Proof.Machine

/-! ### What one update, or a fault raised from a handler, leaves alone -/

/-- A write of `I` leaves every other field alone. -/
theorem unchangedBut_setI (s : State) (w : Word) : unchangedBut [.i] s (s.setI w) := by
  intro f hf
  cases f with
  | i => exact absurd (List.mem_singleton_self _) hf
  | mem => exact fun _ => rfl
  | fault => exact ⟨rfl, rfl⟩
  | _ => rfl

/-- A change of the RPL registers leaves every other field alone. -/
theorem unchangedBut_r (s : State) (r : Vector Byte 8) : unchangedBut [.r] s { s with r := r } := by
  intro f hf
  cases f with
  | r => exact absurd (List.mem_singleton_self _) hf
  | mem => exact fun _ => rfl
  | fault => exact ⟨rfl, rfl⟩
  | _ => rfl

/-- A fault raised from a handler has the whole effect of R311 and no other, with the handler's own information. -/
theorem raisesOnly_raiseHere (s : State) (c : FaultCause) : raisesOnly c ⟨s.pc - 2, s.ir⟩ s (s.raiseHere c) := by
  refine ⟨rfl, rfl, rfl, fun f hf => ?_⟩
  cases f with
  | fault | outputs => simp at hf
  | mem => exact fun _ => rfl
  | _ => rfl

/-! ### The glyph loads on each side of their check -/

section

variable {x : Reg} {s : State}

/-- R242: the small glyph of a digit below 16. -/
theorem exec_ldFVx_of_lt (h : (s.getV x).toNat < 16) : exec (.ldFVx x) s =
    .next (s.setI (BitVec.ofNat 16 (s.config.fontBase.toNat + 5 * (s.getV x).toNat))) :=
  congrArg Host.Outcome.next (if_neg (Nat.not_le.2 h))

/-- R243: the large glyph of a digit below 16. -/
theorem exec_ldHfVx_of_lt (h : (s.getV x).toNat < 16) : exec (.ldHfVx x) s =
    .next (s.setI (BitVec.ofNat 16 (s.config.fontBase.toNat + 0x50 + 10 * (s.getV x).toNat))) :=
  congrArg Host.Outcome.next (if_neg (Nat.not_le.2 h))

/-- R242: the digit is not masked. -/
theorem exec_ldFVx_of_ge (h : 16 ≤ (s.getV x).toNat) : exec (.ldFVx x) s = .next (s.raiseHere .glyphRangeFault) :=
  congrArg Host.Outcome.next (if_pos h)

/-- R243: the digit is not masked. -/
theorem exec_ldHfVx_of_ge (h : 16 ≤ (s.getV x).toNat) : exec (.ldHfVx x) s = .next (s.raiseHere .glyphRangeFault) :=
  congrArg Host.Outcome.next (if_pos h)

end

/-- Settles O34: the words are those of rows 36 and 37. `FONT_BASE` has 12 bits, so no glyph address wraps. -/
theorem glyphAddresses : Obligations.GlyphAddresses := by
  intro x s
  refine ⟨decodeWord_x 36 (by decide) rfl (by decide) (fun _ => rfl) x,
    decodeWord_x 37 (by decide) rfl (by decide) (fun _ => rfl) x, fun hlt => ?digit, fun hge i hi => ?range⟩
  case digit =>
    have hbase := s.config.fontBase.isLt
    exact ⟨⟨_, exec_ldFVx_of_lt hlt, Nat.mod_eq_of_lt (by omega), unchangedBut_setI s _⟩,
      ⟨_, exec_ldHfVx_of_lt hlt, Nat.mod_eq_of_lt (by omega), unchangedBut_setI s _⟩⟩
  case range =>
    obtain rfl | rfl := hi
    · exact ⟨_, exec_ldFVx_of_ge hge, raisesOnly_raiseHere s _⟩
    · exact ⟨_, exec_ldHfVx_of_ge hge, raisesOnly_raiseHere s _⟩

/-! ### The RPL copies -/

/-- The bytes of a register file as a list read as the file does. -/
theorem toList_getD {n k : Nat} (v : Vector Byte n) (hk : k < n) : v.toList.getD k 0 = v[k] := by
  rw [List.getD_eq_getElem _ _ (by simpa using hk), Vector.getElem_toList]

/-- An entry of the RPL registers after a copy from V0..Vx. -/
theorem getElem_setRUpTo_v (s : State) (x : Reg) {k : Nat} (hk : k < 8) :
    (s.setRUpTo x fun j => s.v.toList.getD j 0).r[k] = if k ≤ x.val then s.v[k] else s.r[k] := by
  rw [State.setRUpTo_r, Vector.getElem_ofFn, toList_getD s.v (by omega)]

/-- An entry of the general registers that the RPL registers have too, after a copy from there. -/
theorem getElem_setVUpTo_r (s : State) (x : Reg) {k : Nat} (hk : k < 8) :
    (s.setVUpTo x fun j => s.r.toList.getD j 0).v[k] = if k ≤ x.val then s.r[k] else s.v[k] := by
  simp only [State.setVUpTo_v, Vector.getElem_ofFn, toList_getD s.r hk]

/-- A load of V0..Vx leaves the registers above `Vx` alone. -/
theorem getElem_setVUpTo_of_gt (s : State) {x : Reg} (f : Nat → Byte) {k : Nat} (hk : k < 16) (h : x.val < k) :
    (s.setVUpTo x f).v[k] = s.v[k] := by
  rw [State.setVUpTo_v, Vector.getElem_ofFn, if_neg (Nat.not_le.2 h)]

section

variable {x : Reg} {s : State}

/-- R247: the copy to the RPL registers, for a field X that they have. -/
theorem exec_ldRVx_of_lt (h : x.val < 8) :
    exec (.ldRVx x) s = .next (s.setRUpTo x fun j => s.v.toList.getD j 0) :=
  congrArg Host.Outcome.next (if_neg (Nat.not_le.2 h))

/-- R248: the copy from the RPL registers, for a field X that they have. -/
theorem exec_ldVxR_of_lt (h : x.val < 8) :
    exec (.ldVxR x) s = .next (s.setVUpTo x fun j => s.r.toList.getD j 0) :=
  congrArg Host.Outcome.next (if_neg (Nat.not_le.2 h))

/-- R247: the field X is tested, whatever `Vx` holds. -/
theorem exec_ldRVx_of_ge (h : 8 ≤ x.val) : exec (.ldRVx x) s = .next (s.raiseHere .rplRangeFault) :=
  congrArg Host.Outcome.next (if_pos h)

/-- R248: the field X is tested, whatever `Vx` holds. -/
theorem exec_ldVxR_of_ge (h : 8 ≤ x.val) : exec (.ldVxR x) s = .next (s.raiseHere .rplRangeFault) :=
  congrArg Host.Outcome.next (if_pos h)

end

/-- Settles O38: the words are those of rows 41 and 42, and each copy is one write of the destination file. -/
theorem rplCopies : Obligations.RplCopies := by
  intro x s
  refine ⟨decodeWord_x 41 (by decide) rfl (by decide) (fun _ => rfl) x,
    decodeWord_x 42 (by decide) rfl (by decide) (fun _ => rfl) x, fun hlt => ⟨?store, ?load⟩, fun hge i hi => ?range⟩
  case store => exact ⟨_, exec_ldRVx_of_lt hlt, fun _ hk => getElem_setRUpTo_v s x hk, unchangedBut_r s _⟩
  case load =>
    exact ⟨_, exec_ldVxR_of_lt hlt, fun _ hk => getElem_setVUpTo_r s x hk,
      fun _ hk h8 => getElem_setVUpTo_of_gt s _ hk (Nat.lt_of_lt_of_le hlt h8), unchangedBut_v s _⟩
  case range =>
    obtain rfl | rfl := hi
    · exact ⟨_, exec_ldRVx_of_ge hge, raisesOnly_raiseHere s _⟩
    · exact ⟨_, exec_ldVxR_of_ge hge, raisesOnly_raiseHere s _⟩

end Sys2Proof.Machine
end

section
/-! The call (R273): the word decodes by its row of the table, and below depth 16 the handler is one write of the stack, of `SP` and
of `PC` each. -/

namespace Sys2Proof

/-- The word of a row of format NNN (R118), the address in its field, decodes to the row's instruction with that address. -/
theorem decodeWord_nnn (k : Nat) (hk : k < table.length) (hm : table[k].mask = 0xF000#16)
    (hp : table[k].pattern.toNat % 4096 = 0) {c : Addr → Instr} (hb : ∀ w, table[k].build w = c (fieldNNN w)) (nnn : Addr) :
    decodeWord (BitVec.ofNat 16 (table[k].pattern.toNat + nnn.toNat)) = .ok (c nnn) := by
  have hlt := table[k].pattern.isLt
  have hn := nnn.isLt
  have hw : (BitVec.ofNat 16 (table[k].pattern.toNat + nnn.toNat)).toNat = table[k].pattern.toNat + nnn.toNat :=
    Nat.mod_eq_of_lt (by omega)
  generalize BitVec.ofNat 16 (table[k].pattern.toNat + nnn.toNat) = w at hw ⊢
  have hs : table[k].selects w = true := by
    rw [Row.selects, beq_word, hm, toNat_and_F000, hw]
    exact decide_eq_true (by omega)
  have hfield : fieldNNN w = nnn := BitVec.eq_of_toNat_eq (by rw [fieldNNN_toNat]; omega)
  rw [decodeWord_of_selects (List.getElem_mem hk) hs, hb, hfield]

end Sys2Proof

namespace Sys2Proof.Machine

/-- R119: zero extension keeps the number. -/
@[simp] theorem zext16_toNat (nnn : Addr) : (zext16 nnn).toNat = nnn.toNat :=
  BitVec.toNat_setWidth_of_le (by decide)

/-! ### The push -/

/-- A write within the stack is read back from its place. -/
theorem getElem?_setStack_self (s : State) {k : Nat} (hk : k < 16) (w : Word) :
    (s.setStack k w).stack.toList[k]? = some w := by
  rw [State.setStack_stack, Vector.toList_setIfInBounds, List.getElem?_set_self (by simpa using hk)]

/-- A write of the stack keeps the other entries. -/
theorem getElem?_setStack_of_ne (s : State) {j k : Nat} (h : j ≠ k) (w : Word) :
    (s.setStack k w).stack.toList[j]? = s.stack.toList[j]? := by
  rw [State.setStack_stack, Vector.toList_setIfInBounds, List.getElem?_set_ne h.symm]

/-- The three writes of a call leave every other field alone. -/
theorem unchangedBut_setStack_setSp_setPc (s : State) (k : Nat) (w : Word) (depth : Byte) (target : Word) :
    unchangedBut [.pc, .sp, .stack] s (((s.setStack k w).setSp depth).setPc target) := by
  intro f hf
  cases f with
  | pc | sp | stack => simp at hf
  | mem => exact fun _ => rfl
  | fault => exact ⟨rfl, rfl⟩
  | _ => rfl

/-! ### The call on each side of its check -/

section

variable {s : State} (nnn : Addr)

/-- R273 with a free entry: `PC` is pushed and `nnn` is the next address. -/
theorem exec_call_of_lt (h : s.sp.toNat < 16) :
    exec (.call nnn) s = .next (((s.setStack s.sp.toNat s.pc).setSp (s.sp + 1)).setPc (zext16 nnn)) := by
  have hne : s.sp ≠ 16 := fun heq => absurd h (by simp [heq])
  change execCall nnn s = _
  rw [execCall, if_neg hne, if_pos h]

/-- R273 on a full stack. -/
theorem exec_call_of_full (h : s.sp = 16) : exec (.call nnn) s = .next (s.raiseHere .stackOverflow) := if_pos h

end

/-- Settles O18: the word is that of row 9. A depth below 16 has its entry in the stack, and its successor does not wrap. -/
theorem callPushesReturnAddress : Obligations.CallPushesReturnAddress := by
  intro nnn s
  refine ⟨decodeWord_nnn 9 (by decide) rfl (by decide) (fun _ => rfl) nnn, fun hlt => ?push, fun hfull => ?overflow⟩
  case push =>
    have hdepth : (s.sp + 1).toNat = s.sp.toNat + 1 := BitVec.toNat_add_of_lt (by change s.sp.toNat + 1 < 256; omega)
    exact ⟨_, exec_call_of_lt nnn hlt, getElem?_setStack_self s hlt _, fun _ hk => getElem?_setStack_of_ne s hk _,
      hdepth, zext16_toNat nnn, unchangedBut_setStack_setSp_setPc s _ _ _ _⟩
  case overflow =>
    exact ⟨_, exec_call_of_full nnn (BitVec.eq_of_toNat_eq hfull), raisesOnly_raiseHere s _⟩

end Sys2Proof.Machine
end

section
/-! What every handler keeps, said once, and its two consequences: which words raise DecodeFault (R312), and which operations write
the keyboard (R332). -/

namespace Sys2Proof.Machine

/-! ### What a handler may do

A handler that raises no fault writes machine fields only; the rest of the state is kept. -/

/-- The part of a state that no handler writes except by raising a fault: every field that a handler may write stands at its reset
value, so that two states that differ in those fields only give the same one. -/
def State.unwritten (s : State) : State :=
  { State.reset with
    ir := s.ir, keyboard := s.keyboard, paused := s.paused, faultCause := s.faultCause, faultInfo := s.faultInfo,
    config := s.config, rnd := s.rnd, draws := s.draws, pending := s.pending, outputs := s.outputs }

@[simp] theorem State.unwritten_keyboard (s : State) : s.unwritten.keyboard = s.keyboard := rfl

@[simp] theorem State.unwritten_faultCause (s : State) : s.unwritten.faultCause = s.faultCause := rfl

/-- What a handler may do to the state it runs on: raise a fault other than DecodeFault, which is raised before any handler runs
(R312), or write machine fields. -/
def Handled (s t : State) : Prop := (∃ c, c ≠ .decodeFault ∧ t = s.raiseHere c) ∨ t.unwritten = s.unwritten

namespace Handled

variable {s t : State}

theorem raiseHere {c : FaultCause} (hc : c ≠ .decodeFault) : Handled s (s.raiseHere c) := .inl ⟨c, hc, rfl⟩

theorem skipIf (c : Bool) : Handled s (s.skipIf c) := .inr (by rw [State.skipIf_eq]; rfl)

theorem writeFlagged (x : Reg) (f : Flagged) : Handled s (s.writeFlagged x f) := .inr (by rw [State.writeFlagged_eq]; rfl)

theorem writeLogic (x : Reg) (b : Byte) : Handled s (s.writeLogic x b) := .inr (by rw [State.writeLogic_eq]; rfl)

theorem afterLoadStore (x : Reg) (h : t.unwritten = s.unwritten) : Handled s (t.afterLoadStore x) :=
  .inr (by rw [State.afterLoadStore_eq]; exact h)

/-- A handler that chooses between two outcomes. -/
theorem ite {p : Prop} [Decidable p] {u : State} (ht : Handled s t) (hu : Handled s u) : Handled s (if p then t else u) := by
  split
  · exact ht
  · exact hu

theorem drawRows8 (x y : Reg) (n : Nat) : Handled s (s.drawRows8 x y n) := ite (.inr rfl) (raiseHere (by decide))

theorem drawRows16 (x y : Reg) : Handled s (s.drawRows16 x y) := ite (.inr rfl) (raiseHere (by decide))

end Handled

/-! ### The handlers -/

theorem execRet_handled {s t : State} (h : execRet s = .next t) : Handled s t := by
  unfold execRet at h
  split_ifs at h <;> cases h
  · exact .raiseHere (by decide)
  · exact .inr rfl

theorem execCall_handled {nnn : Addr} {s t : State} (h : execCall nnn s = .next t) : Handled s t := by
  unfold execCall at h
  split_ifs at h <;> cases h
  · exact .raiseHere (by decide)
  · exact .inr rfl

theorem execDrwVxVyN_handled {x y : Reg} {n : Nibble} {s t : State} (h : execDrwVxVyN x y n s = .next t) : Handled s t := by
  unfold execDrwVxVyN at h
  split_ifs at h
  · cases h; exact .drawRows8 x y n.val
  · cases h; exact .drawRows16 x y
  · split at h <;> cases h
    · exact .drawRows16 x y
    · exact .inr rfl
    · exact .raiseHere (by decide)

theorem execScd_handled {n : Nibble} {s t : State} (h : execScd n s = .next t) : Handled s t := by
  unfold execScd at h
  split_ifs at h
  · cases h; exact .inr rfl
  · split at h <;> cases h
    · exact .raiseHere (by decide)
    · exact .inr rfl
    · exact .inr rfl

theorem execLdVxK_handled {x : Reg} {s t : State} (h : execLdVxK x s = .next t) : Handled s t := by
  obtain rfl := Host.Outcome.next.inj h
  split
  · exact .inr rfl
  · exact .inr rfl

/-- No handler raises DecodeFault, and none writes the keyboard, the parameters, or any other field that `State.unwritten` keeps. -/
theorem exec_handled {i : Instr} {s t : State} (h : exec i s = .next t) : Handled s t := by
  cases i with
  | ret => exact execRet_handled h
  | call nnn => exact execCall_handled h
  | drwVxVyN x y n => exact execDrwVxVyN_handled h
  | scd n => exact execScd_handled h
  | ldVxK x => exact execLdVxK_handled h
  | seVxKk | sneVxKk | seVxVy | sneVxVy => cases h; exact .skipIf _
  | orVxVy | andVxVy | xorVxVy => cases h; exact .writeLogic _ _
  | addVxVy | subVxVy | shrVxVy | subnVxVy | shlVxVy => cases h; exact .writeFlagged _ _
  | low | high => cases h; exact .ite (.inr rfl) (.inr rfl)
  | skpVx | sknpVx => cases h; exact .ite (.raiseHere (by decide)) (.skipIf _)
  | ldFVx | ldHfVx | ldRVx | ldVxR => cases h; exact .ite (.raiseHere (by decide)) (.inr rfl)
  | ldBVx => cases h; exact .ite (.inr rfl) (.raiseHere (by decide))
  | ldMemVx | ldVxMem => cases h; exact .ite (.afterLoadStore _ rfl) (.raiseHere (by decide))
  | _ => cases h; exact .inr rfl

/-- A handler reads the keys and never writes them. -/
theorem Handled.keyboard {s t : State} (h : Handled s t) : t.keyboard = s.keyboard := by
  obtain ⟨c, -, rfl⟩ | h := h
  · rfl
  · simpa using congrArg State.keyboard h

/-- A handler's faults are those of its own instruction. -/
theorem Handled.faultCause_ne_decodeFault {s t : State} (h : Handled s t) (hs : s.faultCause = none) :
    t.faultCause ≠ some .decodeFault := by
  obtain ⟨c, hc, rfl⟩ | h := h
  · exact fun hd => hc (Option.some.inj hd)
  · have hkept : t.faultCause = s.faultCause := by simpa using congrArg State.faultCause h
    simp [hkept, hs]

/-! ### Words of no row (R122, R312) -/

/-- A word that no row of the table selects is refused by the decoder. -/
theorem decodeWord_of_no_row {w : Word} (h : ∀ r ∈ table, r.selects w = false) : ∃ e, decodeWord w = .error e := by
  cases hd : decodeWord w with
  | error e => exact ⟨e, rfl⟩
  | ok i =>
    obtain ⟨r, hr, hsel, -⟩ := decodeWord_ok hd
    exact absurd hsel (by simp [h r hr])

/-- The SYS space is the words with 0 in their high four bits (R122). -/
theorem toNat_lt_of_sysSpace {w : Word} (h : decodeWord w = .error .sysSpace) : w.toNat < 0x1000 := by
  obtain ⟨-, he⟩ := decodeWord_error h
  have hmask := toNat_and_F000 w
  split at he
  · next hbeq =>
    have hzero : w &&& 0xF000#16 = 0#16 := eq_of_beq hbeq
    rw [hzero, BitVec.toNat_zero] at hmask
    omega
  · cases he

/-- The fetch checks of R112 raise the two fetch faults only. -/
theorem fetchFault_ne_decodeFault (s : State) : s.fetchFault ≠ some .decodeFault := by
  unfold State.fetchFault
  split_ifs <;> decide

@[simp] theorem pushDisplay_faultCause (s : State) : s.pushDisplay.faultCause = s.faultCause := by rw [State.pushDisplay_eq]

/-- A cycle of a state with no fault records DecodeFault only for a word of no row. -/
theorem no_row_of_cycle_decodeFault {rnd : Byte} {s t : State} (hs : s.faultCause = none) (h : cycle rnd s = .next t)
    (ht : t.faultCause = some .decodeFault) : s.fetchable ∧ ∀ r ∈ table, r.selects s.wordAtPc = false := by
  rcases cycle_next h with ⟨f, hf, rfl⟩ | ⟨hf, ⟨e, he⟩, -⟩ | ⟨-, i, u, -, hu, rfl⟩
  · rw [Option.some.inj ht] at hf
    exact absurd hf (fetchFault_ne_decodeFault s)
  · exact ⟨(fetchFault_eq_none_iff s).1 hf, (decodeWord_error he).1⟩
  · have hpush : (if u.faultCause.isSome then u else u.pushDisplay).faultCause = u.faultCause := by split <;> simp
    exact absurd (hpush.symm.trans ht) ((exec_handled hu).faultCause_ne_decodeFault hs)

/-- Settles O10: outside the SYS space the decoder's refusal is DecodeFault, raised on the state after fetch; and neither the fetch
checks nor a handler raises it. -/
theorem unassignedWordRaisesDecodeFault : Obligations.UnassignedWordRaisesDecodeFault := by
  intro rnd s
  refine ⟨fun hf hrow hsys => ⟨rfl, (s.afterFetch rnd).raiseHere .decodeFault, ?cycle, ?effect⟩,
    fun t hs h ht => no_row_of_cycle_decodeFault hs h ht⟩
  case cycle =>
    obtain ⟨e, he⟩ := decodeWord_of_no_row hrow
    rw [cycle_of_no_row rnd hf he, if_neg]
    rintro ⟨rfl, hhas⟩
    have hlt := toNat_lt_of_sysSpace he
    obtain hno | hge := hsys
    · exact absurd hhas (by simp [hno])
    · omega
  case effect =>
    have hpc : (s.afterFetch rnd).pc - 2 = s.pc := BitVec.add_sub_cancel s.pc 2
    rw [← hpc]
    exact raisesOnly_raiseHere (s.afterFetch rnd) .decodeFault

/-! ### The keyboard over a cycle, a tick and a load (R332) -/

@[simp] theorem pushDisplay_keyboard (s : State) : s.pushDisplay.keyboard = s.keyboard := by rw [State.pushDisplay_eq]

theorem cycle_keyboard {rnd : Byte} {s t : State} (h : cycle rnd s = .next t) : t.keyboard = s.keyboard := by
  rcases cycle_next h with ⟨f, -, rfl⟩ | ⟨-, -, rfl⟩ | ⟨-, i, u, -, hu, rfl⟩
  · rfl
  · rfl
  · calc (if u.faultCause.isSome then u else u.pushDisplay).keyboard
      _ = u.keyboard := by split <;> simp
      _ = s.keyboard := (exec_handled hu).keyboard

@[simp] theorem timerStepIf_true (s : State) : s.timerStepIf true = s.timerStep := rfl

@[simp] theorem timerStepIf_false (s : State) : s.timerStepIf false = s := rfl

@[simp] theorem timerStepIf_keyboard (s : State) (due : Bool) : (s.timerStepIf due).keyboard = s.keyboard := by
  cases due <;> simp

theorem tick_keyboard_of_live {i : TickInput} {s t : State} (hl : s.live = true) (h : tick i s = .next t) :
    t.keyboard = i.keys := by
  obtain ⟨hdead, -⟩ | ⟨-, -, rfl⟩ | ⟨-, -, -, u, hu, ht⟩ := tick_next h
  · exact absurd hl (by simp [hdead])
  · exact timerStepIf_keyboard _ _
  · have hkeys : u.keyboard = i.keys := cycle_keyboard hu
    obtain rfl | rfl := ht
    · exact hkeys
    · exact (State.timerStep_keyboard u).trans hkeys

/-- R338: a tick of a terminal state does nothing. -/
theorem tick_of_not_live {s : State} (i : TickInput) (h : s.live = false) : tick i s = .next s := by simp [tick, h]

theorem singleStep_keyboard {rnd : Byte} {s t : State} (h : singleStep rnd s = .next t) : t.keyboard = s.keyboard := by
  unfold singleStep at h
  split at h
  · exact cycle_keyboard h
  · cases h; rfl

@[simp] theorem pause_keyboard (b : Bool) (s : State) : (pause b s).keyboard = s.keyboard := by
  unfold pause
  split <;> rfl

@[simp] theorem saveState_keyboard (writable : Bool) (s : State) : (saveState writable s).keyboard = s.keyboard := by
  unfold saveState
  split <;> rfl

/-- R381: an image of at most 3584 bytes is accepted. -/
theorem loadProgram_of_le {bytes : List Byte} (s : State) (h : bytes.length ≤ 3584) :
    loadProgram (some bytes) s = s.withProgram bytes := if_pos h

/-- R381, R327: any other image, or none, is an I/O error. -/
theorem loadProgram_of_refused {image : Option (List Byte)} (s : State)
    (h : ¬ ∃ bytes, image = some bytes ∧ bytes.length ≤ 3584) : loadProgram image s = s.emit .ioError := by
  cases image with
  | none => rfl
  | some bytes => exact if_neg fun hle => h ⟨bytes, rfl, hle⟩

/-- R386: a valid stream is accepted. -/
theorem loadState_of_valid {bytes : List Byte} (s : State) (h : validStream bytes.toArray = true) :
    loadState (some bytes) s = s.withStream bytes.toArray := if_pos h

/-- R386, R327: any other stream, or none, is an I/O error. -/
theorem loadState_of_refused {stream : Option (List Byte)} (s : State)
    (h : ¬ ∃ bytes, stream = some bytes ∧ validStream bytes.toArray = true) : loadState stream s = s.emit .ioError := by
  cases stream with
  | none => rfl
  | some bytes => exact if_neg fun hv => h ⟨bytes, rfl, hv⟩

/-- R370: the keyboard that an accepted load leaves. -/
theorem resetAll_keyboard (s : State) {k : Nat} (hk : k < 16) : s.resetAll.keyboard[k] = false := Vector.getElem_replicate hk

/-- Settles O48: a tick's sample outlasts its cycle and timer step, which write no key; the loads start from reset. -/
theorem keyboardIsSampledByTicksOnly : Obligations.KeyboardIsSampledByTicksOnly := by
  intro op s t h
  cases op with
  | tick i =>
    refine ⟨fun hl => tick_keyboard_of_live hl h, fun hdead => ?_⟩
    obtain rfl := Host.Outcome.next.inj ((tick_of_not_live i hdead).symm.trans h)
    rfl
  | singleStep rnd => exact singleStep_keyboard h
  | pause b => cases h; exact pause_keyboard b s
  | saveState writable => cases h; exact saveState_keyboard writable s
  | loadProgram image =>
    obtain rfl := Host.Outcome.next.inj h
    refine ⟨fun ⟨bytes, himage, hle⟩ k hk => ?_, fun hno => by rw [loadProgram_of_refused s hno]; rfl⟩
    subst himage
    simp only [loadProgram_of_le s hle]
    exact resetAll_keyboard s hk
  | loadState stream =>
    obtain rfl := Host.Outcome.next.inj h
    refine ⟨fun ⟨bytes, hstream, hv⟩ k hk => ?_, fun hno => by rw [loadState_of_refused s hno]; rfl⟩
    subst hstream
    simp only [loadState_of_valid s hv]
    exact resetAll_keyboard s hk

end Sys2Proof.Machine
end

section
/-! The timer step as numbers (R340, R341), and the order of a tick (R330): which of its three parts run is decided by the engine
state before and after the cycle. -/

namespace Sys2Proof.Machine

/-! ### The timer step -/

/-- The count down of R340 as numbers: one less, stopping at 0. -/
theorem countDown_toNat (b : Byte) : (if b = 0 then 0 else b - 1).toNat = b.toNat - 1 := by
  split
  · next h => rw [h]; rfl
  · next h =>
    have hpos : b.toNat ≠ 0 := fun h0 => h (BitVec.eq_of_toNat_eq h0)
    exact BitVec.toNat_sub_of_le (by change 1 ≤ b.toNat; omega)

theorem unchangedBut_timerStep (s : State) : unchangedBut [.dt, .st, .outputs] s s.timerStep := by
  intro f hf
  rw [State.timerStep_eq]
  cases f with
  | dt | st | outputs => simp at hf
  | mem => exact fun _ => rfl
  | fault => exact ⟨rfl, rfl⟩
  | _ => rfl

/-- Settles O46: the timer step is its field equations; `LD ST,Vx` is one write of `ST`. -/
theorem beepWhenSoundTimerReachesZero : Obligations.BeepWhenSoundTimerReachesZero := by
  intro s
  refine ⟨?dt, ?st, fun h1 => ?beep, fun h1 => ?silent, unchangedBut_timerStep s, fun x => ⟨s.setSt (s.getV x), rfl, rfl⟩⟩
  case dt => rw [State.timerStep_dt, countDown_toNat]
  case st => rw [State.timerStep_st, countDown_toNat]
  case beep => rw [State.timerStep_outputs, if_pos (BitVec.eq_of_toNat_eq h1)]
  case silent => rw [State.timerStep_outputs, if_neg fun h => h1 (congrArg BitVec.toNat h)]

/-! ### The tick by engine state -/

/-- R54, R338: a live engine is Paused or Running. -/
theorem engine_of_live {s : State} (h : s.live = true) : s.engine = if s.paused then .paused else .running := by
  obtain ⟨hfault, hexited⟩ := s.live_iff.1 h
  simp [State.engine, hfault, hexited]

/-- R338: the engine states in which nothing runs any more. -/
theorem not_live_of_engine {s : State} (h : s.engine = .exited ∨ s.engine = .faulted) : s.live = false := by
  by_contra hlive
  rw [engine_of_live (by simpa using hlive)] at h
  split at h <;> simp at h

/-- R54: a Running engine is live and not paused. -/
theorem live_and_not_paused_of_engine {s : State} (h : s.engine = .running) : s.live = true ∧ s.paused = false := by
  unfold State.engine at h
  split_ifs at h with hfault hexited hpaused
  exact ⟨s.live_iff.2 ⟨by simpa using hfault, by simpa using hexited⟩, by simpa using hpaused⟩

/-- R330 (2): a Running engine with a cycle due runs it on the sampled keys. -/
theorem tick_of_running {i : TickInput} {s u : State} (h : s.engine = .running) (hdue : i.cycleDue = true)
    (hu : cycle i.rnd (s.setKeyboard i.keys) = .next u) : tick i s = afterCycle i (.next u) := by
  obtain ⟨hlive, hpaused⟩ := live_and_not_paused_of_engine h
  simp [tick, hlive, hdue, hpaused, hu]

/-! ### What follows the cycle of a tick -/

section

variable {u : State} (i : TickInput)

theorem afterCycle_of_faulted (h : u.engine = .faulted) : afterCycle i (.next u) = .next u := by
  simp [afterCycle, h]

theorem afterCycle_of_exited (h : u.engine = .exited) :
    afterCycle i (.next u) = .next (u.timerStepIf (i.timerDue && i.timerAfterExit)) := by
  simp [afterCycle, h]

theorem afterCycle_of_live (h : u.engine = .running ∨ u.engine = .paused) :
    afterCycle i (.next u) = .next (u.timerStepIf i.timerDue) := by
  obtain h | h := h <;> simp [afterCycle, h]

end

/-- Settles O47: the engine state before the cycle decides whether it runs, and the one after it what becomes of the timer step. -/
theorem tickOrder : Obligations.TickOrder := by
  intro i s
  refine ⟨fun h => tick_of_not_live i (not_live_of_engine h), fun h => tick_idle h, fun hrun hdue u hu => ?cycle⟩
  have hcycle := tick_of_running hrun hdue hu
  refine ⟨fun hf => ?faulted, fun he ht => ⟨?timer, ?noTimer⟩, fun he ht => ?notDue, fun hl => ?live⟩
  case faulted => exact hcycle.trans (afterCycle_of_faulted i hf)
  case timer =>
    rw [tick_of_running (i := { i with timerAfterExit := true }) hrun hdue hu, afterCycle_of_exited _ he]
    simp [ht]
  case noTimer =>
    rw [tick_of_running (i := { i with timerAfterExit := false }) hrun hdue hu, afterCycle_of_exited _ he]
    simp
  case notDue =>
    rw [hcycle, afterCycle_of_exited i he]
    simp [ht]
  case live => exact hcycle.trans (afterCycle_of_live i hl)

end Sys2Proof.Machine
end

section
/-! The decoder and the encoder (R114, R117 to R120, R122): the round trip in both directions by the formats of the table, the rows that
select a word, and the words that none selects. -/

namespace Sys2Proof

/-! ### From an instruction to its word and back -/

/-- The word of a row of format XKK (R118), both operands in their fields, decodes to the row's instruction with them. -/
theorem decodeWord_xk (k : Nat) (hk : k < table.length) (hm : table[k].mask = 0xF000#16)
    (hp : table[k].pattern.toNat % 4096 = 0) {c : Reg → Byte → Instr}
    (hb : ∀ w, table[k].build w = c (fieldX w) (fieldNN w)) (x : Reg) (kk : Byte) :
    decodeWord (BitVec.ofNat 16 (table[k].pattern.toNat + (256 * x.val + kk.toNat))) = .ok (c x kk) := by
  have hlt := table[k].pattern.isLt
  have hw : (BitVec.ofNat 16 (table[k].pattern.toNat + (256 * x.val + kk.toNat))).toNat =
      table[k].pattern.toNat + (256 * x.val + kk.toNat) := Nat.mod_eq_of_lt (by omega)
  generalize BitVec.ofNat 16 (table[k].pattern.toNat + (256 * x.val + kk.toNat)) = w at hw ⊢
  have hs : table[k].selects w = true := by
    rw [Row.selects, beq_word, hm, toNat_and_F000, hw]
    exact decide_eq_true (by omega)
  have hx : fieldX w = x := Fin.ext (by rw [fieldX_val]; omega)
  have hkk : fieldNN w = kk := BitVec.eq_of_toNat_eq (by rw [fieldNN_toNat]; omega)
  rw [decodeWord_of_selects (List.getElem_mem hk) hs, hb, hx, hkk]

/-- The words of format N4 (R118). -/
theorem decodeWord_scd (n : Nibble) : decodeWord (encode (.scd n)) = .ok (.scd n) := by
  have hw : (encode (.scd n)).toNat = 0x00C0 + n.val := encode_toNat _
  have hs : table[2].selects (encode (.scd n)) = true := by
    rw [Row.selects, beq_word]
    exact decide_eq_true ((toNat_and_FFF0 _).trans (by rw [hw]; change _ = 0x00C0; omega))
  have hn : fieldN (encode (.scd n)) = n := Fin.ext (by rw [fieldN_val]; omega)
  exact (decodeWord_of_selects (List.getElem_mem _) hs).trans (congrArg (fun n => Except.ok (Instr.scd n)) hn)

/-- The words of format XYN (R118). -/
theorem decodeWord_drw (x y : Reg) (n : Nibble) : decodeWord (encode (.drwVxVyN x y n)) = .ok (.drwVxVyN x y n) := by
  have hw : (encode (.drwVxVyN x y n)).toNat = 0xD000 + (256 * x.val + 16 * y.val + n.val) := encode_toNat _
  have hs : table[28].selects (encode (.drwVxVyN x y n)) = true := by
    rw [Row.selects, beq_word]
    exact decide_eq_true ((toNat_and_F000 _).trans (by rw [hw]; change _ = 0xD000; omega))
  have hx : fieldX (encode (.drwVxVyN x y n)) = x := Fin.ext (by rw [fieldX_val]; omega)
  have hy : fieldY (encode (.drwVxVyN x y n)) = y := Fin.ext (by rw [fieldY_val]; omega)
  have hn : fieldN (encode (.drwVxVyN x y n)) = n := Fin.ext (by rw [fieldN_val]; omega)
  refine (decodeWord_of_selects (List.getElem_mem _) hs).trans ?_
  change Except.ok (Instr.drwVxVyN (fieldX _) (fieldY _) (fieldN _)) = _
  rw [hx, hy, hn]

/-- The word of an instruction with two register operands, as `decodeWord_xy` writes it. -/
theorem encode_xy {i : Instr} {x y : Reg} (h : i.operands = .xy x.val y.val) :
    encode i = BitVec.ofNat 16 (i.pattern + 256 * x.val + 16 * y.val) := by
  rw [encode, h, Nat.add_assoc]
  rfl

/-- R114, R120: each instruction's word decodes by the row of its format. -/
theorem decodeWord_encode (i : Instr) : decodeWord (encode i) = .ok i := by
  cases i with
  | cls | ret | scr | scl | exit | low | high => decide
  | scd n => exact decodeWord_scd n
  | jp a => exact decodeWord_nnn 8 (by decide) rfl (by decide) (fun _ => rfl) a
  | call a => exact decodeWord_nnn 9 (by decide) rfl (by decide) (fun _ => rfl) a
  | ldINnn a => exact decodeWord_nnn 25 (by decide) rfl (by decide) (fun _ => rfl) a
  | jpV0Nnn a => exact decodeWord_nnn 26 (by decide) rfl (by decide) (fun _ => rfl) a
  | seVxKk x kk => exact decodeWord_xk 10 (by decide) rfl (by decide) (fun _ => rfl) x kk
  | sneVxKk x kk => exact decodeWord_xk 11 (by decide) rfl (by decide) (fun _ => rfl) x kk
  | ldVxKk x kk => exact decodeWord_xk 13 (by decide) rfl (by decide) (fun _ => rfl) x kk
  | addVxKk x kk => exact decodeWord_xk 14 (by decide) rfl (by decide) (fun _ => rfl) x kk
  | rndVxKk x kk => exact decodeWord_xk 27 (by decide) rfl (by decide) (fun _ => rfl) x kk
  | seVxVy x y => rw [encode_xy rfl]; exact decodeWord_xy 12 (by decide) rfl (by decide) (fun _ => rfl) x y
  | ldVxVy x y => rw [encode_xy rfl]; exact decodeWord_xy 15 (by decide) rfl (by decide) (fun _ => rfl) x y
  | orVxVy x y => rw [encode_xy rfl]; exact decodeWord_xy 16 (by decide) rfl (by decide) (fun _ => rfl) x y
  | andVxVy x y => rw [encode_xy rfl]; exact decodeWord_xy 17 (by decide) rfl (by decide) (fun _ => rfl) x y
  | xorVxVy x y => rw [encode_xy rfl]; exact decodeWord_xy 18 (by decide) rfl (by decide) (fun _ => rfl) x y
  | addVxVy x y => rw [encode_xy rfl]; exact decodeWord_xy 19 (by decide) rfl (by decide) (fun _ => rfl) x y
  | subVxVy x y => rw [encode_xy rfl]; exact decodeWord_xy 20 (by decide) rfl (by decide) (fun _ => rfl) x y
  | shrVxVy x y => rw [encode_xy rfl]; exact decodeWord_xy 21 (by decide) rfl (by decide) (fun _ => rfl) x y
  | subnVxVy x y => rw [encode_xy rfl]; exact decodeWord_xy 22 (by decide) rfl (by decide) (fun _ => rfl) x y
  | shlVxVy x y => rw [encode_xy rfl]; exact decodeWord_xy 23 (by decide) rfl (by decide) (fun _ => rfl) x y
  | sneVxVy x y => rw [encode_xy rfl]; exact decodeWord_xy 24 (by decide) rfl (by decide) (fun _ => rfl) x y
  | drwVxVyN x y n => exact decodeWord_drw x y n
  | skpVx x => exact decodeWord_x 29 (by decide) rfl (by decide) (fun _ => rfl) x
  | sknpVx x => exact decodeWord_x 30 (by decide) rfl (by decide) (fun _ => rfl) x
  | ldVxDt x => exact decodeWord_x 31 (by decide) rfl (by decide) (fun _ => rfl) x
  | ldVxK x => exact decodeWord_x 32 (by decide) rfl (by decide) (fun _ => rfl) x
  | ldDtVx x => exact decodeWord_x 33 (by decide) rfl (by decide) (fun _ => rfl) x
  | ldStVx x => exact decodeWord_x 34 (by decide) rfl (by decide) (fun _ => rfl) x
  | addIVx x => exact decodeWord_x 35 (by decide) rfl (by decide) (fun _ => rfl) x
  | ldFVx x => exact decodeWord_x 36 (by decide) rfl (by decide) (fun _ => rfl) x
  | ldHfVx x => exact decodeWord_x 37 (by decide) rfl (by decide) (fun _ => rfl) x
  | ldBVx x => exact decodeWord_x 38 (by decide) rfl (by decide) (fun _ => rfl) x
  | ldMemVx x => exact decodeWord_x 39 (by decide) rfl (by decide) (fun _ => rfl) x
  | ldVxMem x => exact decodeWord_x 40 (by decide) rfl (by decide) (fun _ => rfl) x
  | ldRVx x => exact decodeWord_x 41 (by decide) rfl (by decide) (fun _ => rfl) x
  | ldVxR x => exact decodeWord_x 42 (by decide) rfl (by decide) (fun _ => rfl) x

/-- The operand types are the widths of the fields, so that every instruction is well formed (R117). -/
theorem instr_wellFormed (i : Instr) : i.WellFormed := by
  unfold Instr.WellFormed
  cases i with
  | seVxKk x kk | sneVxKk x kk | ldVxKk x kk | addVxKk x kk | rndVxKk x kk =>
    simpa [Instr.operands, Operands.wellFormed] using kk.isLt
  | jp a | call a | ldINnn a | jpV0Nnn a => simpa [Instr.operands, Operands.wellFormed] using a.isLt
  | _ => simp [Instr.operands, Operands.wellFormed]

/-- Settles O1: no two rows select one word, so the row that an instruction is encoded by is the one that decodes it. -/
theorem decodeInvertsEncode : Obligations.DecodeInvertsEncode := fun i => ⟨instr_wellFormed i, decodeWord_encode i⟩

/-! ### From a word to its instruction and back -/

/-- The bits of a word that a row of the format fixes (R118). -/
def Format.mask : Format → Word
  | .z => 0xFFFF#16
  | .n4 => 0xFFF0#16
  | .a => 0xF000#16
  | .xk => 0xF000#16
  | .xy => 0xF00F#16
  | .xyn => 0xF000#16
  | .x => 0xF0FF#16

/-- The operands that a word holds in the fields of the format (R117, R118). -/
def Format.operands (w : Word) : Format → Operands
  | .z => .z
  | .n4 => .n4 (fieldN w).val
  | .a => .a (fieldNNN w).toNat
  | .xk => .xk (fieldX w).val (fieldNN w).toNat
  | .xy => .xy (fieldX w).val (fieldY w).val
  | .xyn => .xyn (fieldX w).val (fieldY w).val (fieldN w).val
  | .x => .xOnly (fieldX w).val

/-- The number that the fixed bits of a word are, in a row of the format. -/
def Format.fixed (n : Nat) : Format → Nat
  | .z => n
  | .n4 => n / 16 * 16
  | .a => n / 4096 * 4096
  | .xk => n / 4096 * 4096
  | .xy => n / 4096 * 4096 + n % 16
  | .xyn => n / 4096 * 4096
  | .x => n / 4096 * 4096 + n % 256

theorem toNat_and_mask (f : Format) (w : Word) : (w &&& f.mask).toNat = f.fixed w.toNat := by
  cases f with
  | z => exact toNat_and_FFFF w
  | n4 => exact toNat_and_FFF0 w
  | a | xk | xyn => exact toNat_and_F000 w
  | xy => exact toNat_and_F00F w
  | x => exact toNat_and_F0FF w

/-- The fixed bits and the fields of a format make up the word: none is lost and none counted twice. -/
theorem fixed_add_operands (f : Format) (w : Word) : f.fixed w.toNat + (f.operands w).bits = w.toNat := by
  cases f <;>
    simp only [Format.fixed, Format.operands, Operands.bits, fieldX_val, fieldY_val, fieldN_val, fieldNN_toNat,
      fieldNNN_toNat] <;>
    omega

/-- Each row of R120 has the mask of its format, and builds an instruction of its own match value with the format's operands. -/
theorem row_spec {r : Row} (hr : r ∈ table) : r.mask = r.format.mask ∧
    ∀ w, (r.build w).pattern = r.pattern.toNat ∧ (r.build w).operands = r.format.operands w := by
  revert r
  simp only [table, List.forall_mem_append]
  refine ⟨⟨⟨⟨?_, ?_⟩, ?_⟩, ?_⟩, ?_⟩ <;> intro r hr <;> fin_cases hr <;> exact ⟨rfl, fun w => ⟨rfl, rfl⟩⟩

/-- A row selects a word by the number that the word's fixed bits are (R114). -/
theorem selects_iff {r : Row} (hr : r ∈ table) (w : Word) : r.selects w = true ↔ r.format.fixed w.toNat = r.pattern.toNat := by
  rw [Row.selects, beq_word, decide_eq_true_iff, (row_spec hr).1, toNat_and_mask]

/-- What a row builds from a word that it selects is encoded by that word. -/
theorem encode_build {r : Row} {w : Word} (hr : r ∈ table) (hs : r.selects w = true) : encode (r.build w) = w := by
  obtain ⟨hpattern, hoperands⟩ := (row_spec hr).2 w
  apply BitVec.eq_of_toNat_eq
  calc (encode (r.build w)).toNat
    _ = r.pattern.toNat + (r.format.operands w).bits := by rw [encode_toNat, hpattern, hoperands]
    _ = r.format.fixed w.toNat + (r.format.operands w).bits := by rw [(selects_iff hr w).1 hs]
    _ = w.toNat := fixed_add_operands r.format w

/-- Settles O2: the row that decodes a word holds each of its bits, in the match value or in an operand. -/
theorem encodeInvertsDecode : Obligations.EncodeInvertsDecode := by
  intro w i h
  obtain ⟨r, hr, hs, rfl⟩ := decodeWord_ok h
  exact encode_build hr hs

/-- Settles O3: the decoder is run on each of the ten words. -/
theorem sampleWordsDecode : Obligations.SampleWordsDecode := by
  unfold Obligations.SampleWordsDecode
  decide

/-- Settles O5: two rows that both select a word would disagree on a bit that both fix. -/
theorem atMostOneRowSelectsAWord : Obligations.AtMostOneRowSelectsAWord := by
  refine ⟨rfl, fun w => ?_⟩
  have hpair := table_pairwise_disagrees.filter (fun r => r.selects w)
  have hsel : ∀ r ∈ table.filter (fun r => r.selects w), r ∈ table ∧ r.selects w = true := fun r => List.mem_filter.1
  generalize table.filter (fun r => r.selects w) = rows at hpair hsel
  match rows with
  | [] => exact Nat.zero_le 1
  | [_] => exact Nat.le_refl 1
  | r :: r' :: _ =>
    obtain ⟨hr, hs⟩ := hsel r (by simp)
    obtain ⟨hr', hs'⟩ := hsel r' (by simp)
    have hdis : Row.Disagrees r r' := (List.pairwise_cons.1 hpair).1 r' (by simp)
    rw [eq_of_selects hr hr' hs hs'] at hdis
    exact absurd rfl hdis

/-- The numbers that R122 lists, by their high four bits. -/
def Unassigned (n : Nat) : Prop :=
  (n / 4096 = 0 ∧ ¬ (0xC0 ≤ n ∧ n ≤ 0xCF) ∧ n ≠ 0xE0 ∧ n ≠ 0xEE ∧ ¬ (0xFB ≤ n ∧ n ≤ 0xFF)) ∨
  ((n / 4096 = 5 ∨ n / 4096 = 9) ∧ n % 16 ≠ 0) ∨
  (n / 4096 = 8 ∧ n % 16 ∈ [8, 9, 0xA, 0xB, 0xC, 0xD, 0xF]) ∨
  (n / 4096 = 0xE ∧ n % 256 ∉ [0x9E, 0xA1]) ∨
  (n / 4096 = 0xF ∧ n % 256 ∉ [0x07, 0x0A, 0x15, 0x18, 0x1E, 0x29, 0x30, 0x33, 0x55, 0x65, 0x75, 0x85])

/-- A word's number is that of no row exactly when R122 lists it: for each value of the high four bits, the rows with that value
leave out what the list says. -/
theorem fixed_ne_iff_unassigned {n : Nat} (hn : n < 65536) :
    (∀ r ∈ table, r.format.fixed n ≠ r.pattern.toNat) ↔ Unassigned n := by
  have hhigh : n / 4096 < 16 := by omega
  simp only [table, tableSystem, tableJump, tableReg, tableWide, tableF, List.forall_mem_append, List.forall_mem_cons,
    List.not_mem_nil, false_implies, implies_true, and_true, Format.fixed, Unassigned, BitVec.reduceToNat]
  generalize hh : n / 4096 = high at hhigh ⊢
  interval_cases high <;> simp <;> omega

/-- The decoder refuses a word exactly when no row selects it (R122). -/
theorem exists_error_iff (w : Word) : (∃ e, decodeWord w = .error e) ↔ ∀ r ∈ table, r.selects w = false :=
  ⟨fun ⟨_, he⟩ => (decodeWord_error he).1, Machine.decodeWord_of_no_row⟩

theorem exists_error_iff_unassigned (w : Word) : (∃ e, decodeWord w = .error e) ↔ Unassigned w.toNat := by
  rw [exists_error_iff, ← fixed_ne_iff_unassigned w.isLt]
  refine forall₂_congr fun r hr => ?_
  rw [ne_eq, ← selects_iff hr w, Bool.not_eq_true]

/-- A refused word is of the SYS space by its high four bits (R122). -/
theorem sysSpace_of_error {w : Word} {e : DecodeReject} (h : decodeWord w = .error e) (hhigh : w.toNat / 4096 = 0) :
    decodeWord w = .error .sysSpace := by
  have hzero : w &&& 0xF000 = 0 := BitVec.eq_of_toNat_eq ((toNat_and_F000 w).trans (by rw [hhigh]; rfl))
  rw [h, (decodeWord_error h).2, if_pos (beq_of_eq hzero)]

/-- Settles O4: the refused words are those of no row, row by row the ones that R122 lists. -/
theorem unassignedWordsAreRefused : Obligations.UnassignedWordsAreRefused := by
  refine fun w => ⟨exists_error_iff_unassigned w, fun h => ⟨⟨_, h⟩, ?high⟩, fun ⟨⟨_, he⟩, hhigh⟩ => sysSpace_of_error he hhigh⟩
  have := Machine.toNat_lt_of_sysSpace h
  omega

end Sys2Proof
end

section
/-! What a handler does, said once: it raises a fault on that fault's condition, or writes the fields of its instruction only. The promises
about faults, fields and the sound timer follow (R310, R311, R33 to R58). -/

namespace Sys2Proof.Machine

/-! ### Frames compose -/

theorem Field.same_refl (f : Field) (s : State) : f.same s s := by
  cases f with
  | mem => exact fun _ => rfl
  | fault => exact ⟨rfl, rfl⟩
  | _ => rfl

theorem Field.same_trans {f : Field} {s t u : State} (h : f.same s t) (h' : f.same t u) : f.same s u := by
  cases f with
  | mem => exact fun a => (h' a).trans (h a)
  | fault => exact ⟨h'.1.trans h.1, h'.2.trans h.2⟩
  | _ => exact Eq.trans h' h

theorem unchangedBut_refl (fields : List Field) (s : State) : unchangedBut fields s s := fun f _ => f.same_refl s

/-- Two changes one after the other change the fields of both. -/
theorem unchangedBut_trans {a b : List Field} {s t u : State} (h : unchangedBut a s t) (h' : unchangedBut b t u) :
    unchangedBut (a ++ b) s u := fun f hf =>
  Field.same_trans (h f fun ha => hf (List.mem_append_left b ha)) (h' f fun hb => hf (List.mem_append_right a hb))

theorem unchangedBut_mono {a b : List Field} {s t : State} (hab : a ⊆ b) (h : unchangedBut a s t) : unchangedBut b s t :=
  fun f hf => h f fun ha => hf (hab ha)

/-! ### The frame of each update -/

section

variable (s : State)

theorem unchangedBut_setV (x : Reg) (b : Byte) : unchangedBut [.v] s (s.setV x b) := unchangedBut_v s _

theorem unchangedBut_setVUpTo (x : Reg) (f : Nat → Byte) : unchangedBut [.v] s (s.setVUpTo x f) := unchangedBut_v s _

theorem unchangedBut_setRUpTo (x : Reg) (f : Nat → Byte) : unchangedBut [.r] s (s.setRUpTo x f) := unchangedBut_r s _

theorem unchangedBut_setSp (b : Byte) : unchangedBut [.sp] s (s.setSp b) := by
  intro f hf
  cases f with
  | sp => exact absurd (List.mem_singleton_self _) hf
  | mem => exact fun _ => rfl
  | fault => exact ⟨rfl, rfl⟩
  | _ => rfl

theorem unchangedBut_setDt (b : Byte) : unchangedBut [.dt] s (s.setDt b) := by
  intro f hf
  cases f with
  | dt => exact absurd (List.mem_singleton_self _) hf
  | mem => exact fun _ => rfl
  | fault => exact ⟨rfl, rfl⟩
  | _ => rfl

theorem unchangedBut_setSt (b : Byte) : unchangedBut [.st] s (s.setSt b) := by
  intro f hf
  cases f with
  | st => exact absurd (List.mem_singleton_self _) hf
  | mem => exact fun _ => rfl
  | fault => exact ⟨rfl, rfl⟩
  | _ => rfl

theorem unchangedBut_setExited : unchangedBut [.exited] s s.setExited := by
  intro f hf
  cases f with
  | exited => exact absurd (List.mem_singleton_self _) hf
  | mem => exact fun _ => rfl
  | fault => exact ⟨rfl, rfl⟩
  | _ => rfl

theorem unchangedBut_setPixels (p : List Nat) : unchangedBut [.pixels, .displayChanged] s (s.setPixels p) := by
  intro f hf
  cases f with
  | pixels | displayChanged => simp at hf
  | mem => exact fun _ => rfl
  | fault => exact ⟨rfl, rfl⟩
  | _ => rfl

theorem unchangedBut_writeBytes (a : Nat) (bs : List Byte) : unchangedBut [.mem] s (s.writeBytes a bs) := by
  intro f hf
  cases f with
  | mem => exact absurd (List.mem_singleton_self _) hf
  | fault => exact ⟨rfl, rfl⟩
  | _ => rfl

theorem unchangedBut_skipIf (c : Bool) : unchangedBut [.pc] s (s.skipIf c) := by
  rw [State.skipIf_eq]
  exact unchangedBut_setPc s _

theorem unchangedBut_writeFlagged (x : Reg) (f : Flagged) : unchangedBut [.v] s (s.writeFlagged x f) := by
  rw [State.writeFlagged_eq]
  exact unchangedBut_v s _

theorem unchangedBut_writeLogic (x : Reg) (b : Byte) : unchangedBut [.v] s (s.writeLogic x b) := by
  rw [State.writeLogic_eq]
  exact unchangedBut_v s _

theorem unchangedBut_afterLoadStore (x : Reg) : unchangedBut [.i] s (s.afterLoadStore x) := by
  rw [State.afterLoadStore_eq]
  exact unchangedBut_setI s _

theorem unchangedBut_drawSprite (xs ys : Byte) (rows cols : Nat) (rowbits : Nat → Nat) :
    unchangedBut [.v, .pixels, .displayChanged] s (s.drawSprite xs ys rows cols rowbits) :=
  unchangedBut_mono (by decide) (unchangedBut_trans (unchangedBut_setPixels s _) (unchangedBut_setV _ vF _))

end

/-! ### The effect of a handler -/

/-- The fields that an instruction may write when it raises no fault. -/
def writtenFields : Instr → List Field
  | .cls | .scd _ | .scr | .scl => [.pixels, .displayChanged]
  | .low | .high => [.mode, .pixels, .displayChanged]
  | .drwVxVyN _ _ _ => [.v, .pixels, .displayChanged]
  | .exit => [.exited]
  | .jp _ | .jpV0Nnn _ => [.pc]
  | .seVxKk _ _ | .sneVxKk _ _ | .seVxVy _ _ | .sneVxVy _ _ | .skpVx _ | .sknpVx _ => [.pc]
  | .ret => [.pc, .sp]
  | .call _ => [.pc, .sp, .stack]
  | .ldVxK _ => [.v, .pc]
  | .ldVxKk _ _ | .addVxKk _ _ | .ldVxVy _ _ | .orVxVy _ _ | .andVxVy _ _ | .xorVxVy _ _ => [.v]
  | .addVxVy _ _ | .subVxVy _ _ | .shrVxVy _ _ | .subnVxVy _ _ | .shlVxVy _ _ => [.v]
  | .rndVxKk _ _ | .ldVxDt _ | .ldVxR _ => [.v]
  | .ldDtVx _ => [.dt]
  | .ldStVx _ => [.st]
  | .ldRVx _ => [.r]
  | .ldINnn _ | .ldFVx _ | .ldHfVx _ => [.i]
  | .addIVx _ | .ldVxMem _ => [.v, .i]
  | .ldBVx _ => [.mem]
  | .ldMemVx _ => [.mem, .i]

/-- The instructions that raise a cause, with its condition on the state that the handler runs on (R310). -/
def FaultCondition (i : Instr) (s : State) : FaultCause → Prop
  | .decodeFault | .fetchRangeFault | .pcAlignFault => False
  | .stackOverflow => s.sp = 16 ∧ ∃ a, i = .call a
  | .stackUnderflow => s.sp = 0 ∧ i = .ret
  | .glyphRangeFault => ∃ x, 16 ≤ (s.getV x).toNat ∧ (i = .ldFVx x ∨ i = .ldHfVx x)
  | .rplRangeFault => ∃ x : Reg, 8 ≤ x.val ∧ (i = .ldRVx x ∨ i = .ldVxR x)
  | .memRangeFault =>
    (∃ x y n, i = .drwVxVyN x y n ∧ 0 < n.val ∧ 0xFFF < s.i.toNat + (n.val - 1)) ∨
    (∃ x y, i = .drwVxVyN x y 0 ∧ (s.extendedMode = true ∨ s.config.drw0Normal = .sprite16) ∧ 0xFFF < s.i.toNat + 31) ∨
    (∃ x, i = .ldBVx x ∧ 0xFFF < s.i.toNat + 2) ∨
    (∃ x, (i = .ldMemVx x ∨ i = .ldVxMem x) ∧ 0xFFF < s.i.toNat + x.val)
  | .keyRangeFault => ∃ x, 16 ≤ (s.getV x).toNat ∧ (i = .skpVx x ∨ i = .sknpVx x)
  | .modeFault => s.extendedMode = false ∧
    ((s.config.drw0Normal = .fault ∧ ∃ x y, i = .drwVxVyN x y 0) ∨ (s.config.scdNormal = .fault ∧ ∃ n, i = .scd n))

/-- What a handler that answers a next state does: the whole effect of a fault on its condition, or a write of the instruction's
fields. -/
def Effect (i : Instr) (s t : State) : Prop :=
  (∃ c, FaultCondition i s c ∧ t = s.raiseHere c) ∨ unchangedBut (writtenFields i) s t

/-- A handler that raises a fault when a check fails, and otherwise completes. -/
theorem effect_ite {i : Instr} {s u : State} {c : FaultCause} {p : Prop} [Decidable p] (hc : p → FaultCondition i s c)
    (hu : unchangedBut (writtenFields i) s u) : Effect i s (if p then s.raiseHere c else u) := by
  split
  · next hp => exact .inl ⟨c, hc hp, rfl⟩
  · exact .inr hu

/-- A handler that completes when the data range is in memory, and otherwise raises MemRangeFault (R84). -/
theorem effect_dataRange {i : Instr} {s u : State} {last : Nat}
    (hc : 0xFFF < s.i.toNat + last → FaultCondition i s .memRangeFault) (hu : unchangedBut (writtenFields i) s u) :
    Effect i s (if s.dataRangeOk last then u else s.raiseHere .memRangeFault) := by
  split
  · exact .inr hu
  · next hrange => exact .inl ⟨.memRangeFault, hc (by simpa [State.dataRangeOk] using hrange), rfl⟩

theorem execRet_effect {s t : State} (h : execRet s = .next t) : Effect .ret s t := by
  unfold execRet at h
  split_ifs at h with hsp hlt <;> cases h
  · exact .inl ⟨.stackUnderflow, ⟨hsp, rfl⟩, rfl⟩
  · exact .inr (unchangedBut_mono (by decide) (unchangedBut_trans (unchangedBut_setSp s _) (unchangedBut_setPc _ _)))

theorem execCall_effect {nnn : Addr} {s t : State} (h : execCall nnn s = .next t) : Effect (.call nnn) s t := by
  unfold execCall at h
  split_ifs at h with hsp hlt <;> cases h
  · exact .inl ⟨.stackOverflow, ⟨hsp, nnn, rfl⟩, rfl⟩
  · exact .inr (unchangedBut_setStack_setSp_setPc s _ _ _ _)

theorem drawRows16_effect {x y : Reg} {s : State} (hmode : s.extendedMode = true ∨ s.config.drw0Normal = .sprite16) :
    Effect (.drwVxVyN x y 0) s (s.drawRows16 x y) :=
  effect_dataRange (fun hrange => .inr (.inl ⟨x, y, rfl, hmode, hrange⟩)) (unchangedBut_drawSprite s _ _ _ _ _)

theorem execDrwVxVyN_effect {x y : Reg} {n : Nibble} {s t : State} (h : execDrwVxVyN x y n s = .next t) :
    Effect (.drwVxVyN x y n) s t := by
  unfold execDrwVxVyN at h
  split_ifs at h with hn hext
  · cases h
    exact effect_dataRange (fun hrange => .inl ⟨x, y, n, rfl, hn, hrange⟩) (unchangedBut_drawSprite s _ _ _ _ _)
  all_goals obtain rfl : n = 0 := Fin.ext (Nat.eq_zero_of_not_pos hn)
  · cases h
    exact drawRows16_effect (.inl hext)
  · split at h <;> cases h
    · next hd => exact drawRows16_effect (.inr hd)
    · exact .inr (unchangedBut_mono (by simp [writtenFields])
        (unchangedBut_trans (unchangedBut_setPixels s _) (unchangedBut_setV _ vF _)))
    · next hd => exact .inl ⟨.modeFault, ⟨by simpa using hext, .inl ⟨hd, x, y, rfl⟩⟩, rfl⟩

theorem execScd_effect {n : Nibble} {s t : State} (h : execScd n s = .next t) : Effect (.scd n) s t := by
  unfold execScd at h
  split_ifs at h with hext
  · cases h
    exact .inr (unchangedBut_setPixels s _)
  · split at h <;> cases h
    · next hd => exact .inl ⟨.modeFault, ⟨by simpa using hext, .inr ⟨hd, n, rfl⟩⟩, rfl⟩
    · exact .inr (unchangedBut_refl _ s)
    · exact .inr (unchangedBut_setPixels s _)

theorem execLdVxK_effect {x : Reg} {s t : State} (h : execLdVxK x s = .next t) : Effect (.ldVxK x) s t := by
  obtain rfl := Host.Outcome.next.inj h
  refine .inr ?_
  split
  · exact unchangedBut_mono (by simp [writtenFields]) (unchangedBut_setPc s _)
  · exact unchangedBut_mono (by simp [writtenFields]) (unchangedBut_setV s x _)

theorem unchangedBut_ite {fields : List Field} {s t u : State} {p : Prop} [Decidable p] (ht : unchangedBut fields s t)
    (hu : unchangedBut fields s u) : unchangedBut fields s (if p then t else u) := by
  split
  · exact ht
  · exact hu

/-- Every handler raises a fault of its own on that fault's condition, or writes its own fields only. -/
theorem exec_effect {i : Instr} {s t : State} (h : exec i s = .next t) : Effect i s t := by
  cases i with
  | ret => exact execRet_effect h
  | call nnn => exact execCall_effect h
  | drwVxVyN x y n => exact execDrwVxVyN_effect h
  | scd n => exact execScd_effect h
  | ldVxK x => exact execLdVxK_effect h
  | cls | scr | scl => cases h; exact .inr (unchangedBut_setPixels s _)
  | exit => cases h; exact .inr (unchangedBut_setExited s)
  | low => cases h; exact .inr (unchangedBut_ite (unchangedBut_switchMode s _) (unchangedBut_refl _ s))
  | high => cases h; exact .inr (unchangedBut_ite (unchangedBut_refl _ s) (unchangedBut_switchMode s _))
  | jp | jpV0Nnn => cases h; exact .inr (unchangedBut_setPc s _)
  | seVxKk | sneVxKk | seVxVy | sneVxVy => cases h; exact .inr (unchangedBut_skipIf s _)
  | ldVxKk | addVxKk | ldVxVy | rndVxKk | ldVxDt => cases h; exact .inr (unchangedBut_setV s _ _)
  | orVxVy | andVxVy | xorVxVy => cases h; exact .inr (unchangedBut_writeLogic s _ _)
  | addVxVy | subVxVy | shrVxVy | subnVxVy | shlVxVy => cases h; exact .inr (unchangedBut_writeFlagged s _ _)
  | ldDtVx => cases h; exact .inr (unchangedBut_setDt s _)
  | ldStVx => cases h; exact .inr (unchangedBut_setSt s _)
  | ldINnn => cases h; exact .inr (unchangedBut_setI s _)
  | addIVx =>
    cases h
    exact .inr (unchangedBut_mono (by simp [writtenFields])
      (unchangedBut_trans (unchangedBut_setI s _) (unchangedBut_setV _ vF _)))
  | skpVx x => cases h; exact effect_ite (fun hx => ⟨x, hx, .inl rfl⟩) (unchangedBut_skipIf s _)
  | sknpVx x => cases h; exact effect_ite (fun hx => ⟨x, hx, .inr rfl⟩) (unchangedBut_skipIf s _)
  | ldFVx x => cases h; exact effect_ite (fun hx => ⟨x, hx, .inl rfl⟩) (unchangedBut_setI s _)
  | ldHfVx x => cases h; exact effect_ite (fun hx => ⟨x, hx, .inr rfl⟩) (unchangedBut_setI s _)
  | ldRVx x => cases h; exact effect_ite (fun hx => ⟨x, hx, .inl rfl⟩) (unchangedBut_setRUpTo s _ _)
  | ldVxR x => cases h; exact effect_ite (fun hx => ⟨x, hx, .inr rfl⟩) (unchangedBut_setVUpTo s _ _)
  | ldBVx x =>
    cases h
    exact effect_dataRange (fun hr => .inr (.inr (.inl ⟨x, rfl, hr⟩))) (unchangedBut_writeBytes s _ _)
  | ldMemVx x =>
    cases h
    exact effect_dataRange (fun hr => .inr (.inr (.inr ⟨x, .inl rfl, hr⟩)))
      (unchangedBut_trans (unchangedBut_writeBytes s _ _) (unchangedBut_afterLoadStore _ x))
  | ldVxMem x =>
    cases h
    exact effect_dataRange (fun hr => .inr (.inr (.inr ⟨x, .inr rfl, hr⟩)))
      (unchangedBut_trans (unchangedBut_setVUpTo s _ _) (unchangedBut_afterLoadStore _ x))

/-! ### Faults (R310, R311) -/

/-- A handler that leaves a fault recorded where none was has raised it, on its condition. -/
theorem exec_raised {i : Instr} {s t : State} {c : FaultCause} (hs : s.faultCause = none) (h : exec i s = .next t)
    (ht : t.faultCause = some c) : FaultCondition i s c ∧ t = s.raiseHere c := by
  obtain ⟨c', hcond, rfl⟩ | hframe := exec_effect h
  · obtain rfl : c' = c := Option.some.inj ht
    exact ⟨hcond, rfl⟩
  · have hkept : t.faultCause = s.faultCause := (hframe .fault (by cases i <;> simp [writtenFields])).1
    simp [hkept, hs] at ht

/-- Settles O40: a fault that a handler leaves is the whole effect of raising it. -/
theorem faultsArePrecise : Obligations.FaultsArePrecise := by
  intro i s t c hs h ht
  obtain ⟨-, rfl⟩ := exec_raised hs h ht
  exact raisesOnly_raiseHere s c

/-- Settles O41: the condition under which a handler raises a cause is the one that R310 gives it. -/
theorem faultCausesHaveTheirInstructions : Obligations.FaultCausesHaveTheirInstructions := by
  intro i s t c hs h ht
  obtain ⟨hcond, -⟩ := exec_raised hs h ht
  cases c <;> exact hcond

/-! ### Who writes a field (R33 to R58) -/

/-- A field that differs after a handler is one of the instruction's, the fault record and its event apart. -/
theorem exec_same {i : Instr} {s t : State} (h : exec i s = .next t) {f : Field} (hf : f ∉ writtenFields i)
    (hfault : f ≠ .fault := by decide) (houtputs : f ≠ .outputs := by decide) : f.same s t := by
  obtain ⟨c, -, rfl⟩ | hframe := exec_effect h
  · obtain ⟨-, -, -, hframe⟩ := raisesOnly_raiseHere s c
    exact hframe f (by simp [hfault, houtputs])
  · exact hframe f hf

/-- The instructions that list a field among theirs. -/
theorem writers (i : Instr) :
    (.sp ∈ writtenFields i ∨ .stack ∈ writtenFields i → i = .ret ∨ ∃ a, i = .call a) ∧
    (.r ∈ writtenFields i → ∃ x, i = .ldRVx x) ∧
    (.mode ∈ writtenFields i → i = .high ∨ i = .low) ∧
    (.exited ∈ writtenFields i → i = .exit) ∧
    (.dt ∈ writtenFields i → ∃ x, i = .ldDtVx x) ∧
    (.st ∈ writtenFields i → ∃ x, i = .ldStVx x) ∧
    (.mem ∈ writtenFields i → ∃ x, i = .ldBVx x ∨ i = .ldMemVx x) ∧
    (.i ∈ writtenFields i → (∃ a, i = .ldINnn a) ∨
      ∃ x, i = .addIVx x ∨ i = .ldFVx x ∨ i = .ldHfVx x ∨ i = .ldMemVx x ∨ i = .ldVxMem x) ∧
    (.pixels ∈ writtenFields i → i = .cls ∨ i = .scr ∨ i = .scl ∨ i = .high ∨ i = .low ∨ (∃ n, i = .scd n) ∨
      ∃ x y n, i = .drwVxVyN x y n) := by
  cases i <;> simp [writtenFields]

/-- The fields that no instruction lists. -/
theorem not_mem_writtenFields (i : Instr) {f : Field} (hf : f ∈ [.ir, .keyboard, .paused, .config, .rnd, .draws, .pending]) :
    f ∉ writtenFields i := by
  simp only [List.mem_cons, List.not_mem_nil, or_false] at hf
  obtain rfl | rfl | rfl | rfl | rfl | rfl | rfl := hf <;> cases i <;> simp [writtenFields]

/-- Settles O42: for each field, the instructions that list it among theirs are the ones that the spec names. -/
theorem onlyTheirInstructionsWrite : Obligations.OnlyTheirInstructionsWrite := by
  intro i s t h
  obtain ⟨hdepth, hr, hmode, hexited, hdt, hst, hmem, hi, hpixels⟩ := writers i
  refine ⟨fun hne => hdepth (hne.imp ?sp ?stack), fun hne => hr ?_, fun hne => hmode ?_, fun hne => hexited ?_,
    fun hne => hdt ?_, fun hne => hst ?_, fun ⟨a, hne⟩ => hmem ?mem, fun hne => hi ?_, fun hne => hpixels ?_,
    exec_same h (f := .ir) (not_mem_writtenFields i (by decide)),
    exec_same h (f := .keyboard) (not_mem_writtenFields i (by decide)),
    exec_same h (f := .paused) (not_mem_writtenFields i (by decide)),
    exec_same h (f := .config) (not_mem_writtenFields i (by decide)),
    exec_same h (f := .rnd) (not_mem_writtenFields i (by decide)),
    exec_same h (f := .draws) (not_mem_writtenFields i (by decide)),
    exec_same h (f := .pending) (not_mem_writtenFields i (by decide))⟩
  case sp => exact fun hne => by_contra fun hf => hne (exec_same h hf)
  case stack => exact fun hne => by_contra fun hf => hne (exec_same h hf)
  case mem =>
    by_contra hf
    have hread : Field.same .mem s t := exec_same h hf
    exact hne (hread a)
  all_goals exact by_contra fun hf => hne (exec_same h hf)

/-! ### The sound timer (R38) -/

/-- The outcome with its next state changed. -/
def mapNext (f : State → State) : Result → Result
  | .next t => .next (f t)
  | .fault e => .fault e
  | .refused r => .refused r

section

variable (s : State) (b : Byte)

/-- A choice between two states by a check that does not read `ST`. -/
theorem ite_setSt {p : Prop} [Decidable p] {t u t' u' : State} (ht : t' = t.setSt b) (hu : u' = u.setSt b) :
    (if p then t' else u') = (if p then t else u).setSt b := by
  split
  · exact ht
  · exact hu

theorem setSt_skipIf (c : Bool) : (s.setSt b).skipIf c = (s.skipIf c).setSt b := ite_setSt b rfl rfl

theorem setSt_writeFlagged (x : Reg) (f : Flagged) : (s.setSt b).writeFlagged x f = (s.writeFlagged x f).setSt b :=
  ite_setSt b rfl rfl

theorem setSt_writeLogic (x : Reg) (k : Byte) : (s.setSt b).writeLogic x k = (s.writeLogic x k).setSt b := ite_setSt b rfl rfl

theorem setSt_afterLoadStore (x : Reg) : (s.setSt b).afterLoadStore x = (s.afterLoadStore x).setSt b := by
  rw [State.afterLoadStore_eq, State.afterLoadStore_eq]
  rfl

theorem setSt_drawRows8 (x y : Reg) (n : Nat) : (s.setSt b).drawRows8 x y n = (s.drawRows8 x y n).setSt b :=
  ite_setSt b rfl rfl

theorem setSt_drawRows16 (x y : Reg) : (s.setSt b).drawRows16 x y = (s.drawRows16 x y).setSt b := ite_setSt b rfl rfl

/-- A choice between two outcomes by a check that does not read `ST`. -/
theorem mapNext_dite {f : State → State} {p : Prop} [Decidable p] {o o' : p → Result} {q q' : ¬p → Result}
    (ho : ∀ h, o' h = mapNext f (o h)) (hq : ∀ h, q' h = mapNext f (q h)) :
    (if h : p then o' h else q' h) = mapNext f (if h : p then o h else q h) := by
  split
  · exact ho _
  · exact hq _

theorem mapNext_ite {f : State → State} {p : Prop} [Decidable p] {o o' q q' : Result} (ho : o' = mapNext f o)
    (hq : q' = mapNext f q) : (if p then o' else q') = mapNext f (if p then o else q) := mapNext_dite (fun _ => ho) fun _ => hq

theorem execRet_setSt : execRet (s.setSt b) = mapNext (·.setSt b) (execRet s) :=
  mapNext_ite rfl (mapNext_dite (fun _ => rfl) fun _ => rfl)

theorem execCall_setSt (nnn : Addr) : execCall nnn (s.setSt b) = mapNext (·.setSt b) (execCall nnn s) :=
  mapNext_ite rfl (mapNext_ite rfl rfl)

theorem execDrwVxVyN_setSt (x y : Reg) (n : Nibble) :
    execDrwVxVyN x y n (s.setSt b) = mapNext (·.setSt b) (execDrwVxVyN x y n s) := by
  refine mapNext_ite (congrArg Host.Outcome.next (setSt_drawRows8 s b x y n.val))
    (mapNext_ite (congrArg Host.Outcome.next (setSt_drawRows16 s b x y)) ?_)
  rw [State.setSt_config]
  cases s.config.drw0Normal with
  | sprite16 => exact congrArg Host.Outcome.next (setSt_drawRows16 s b x y)
  | _ => rfl

theorem execScd_setSt (n : Nibble) : execScd n (s.setSt b) = mapNext (·.setSt b) (execScd n s) := by
  refine mapNext_ite rfl ?_
  rw [State.setSt_config]
  cases s.config.scdNormal <;> rfl

theorem execLdVxK_setSt (x : Reg) : execLdVxK x (s.setSt b) = mapNext (·.setSt b) (execLdVxK x s) := by
  have hkey : (s.setSt b).lowestKey = s.lowestKey := rfl
  unfold execLdVxK
  rw [hkey]
  cases s.lowestKey <;> rfl

/-- Every handler but that of `LD ST,Vx` commutes with a change of `ST`. -/
theorem exec_setSt {i : Instr} (hi : ∀ x, i ≠ .ldStVx x) : exec i (s.setSt b) = mapNext (·.setSt b) (exec i s) := by
  cases i with
  | ldStVx x => exact absurd rfl (hi x)
  | ret => exact execRet_setSt s b
  | call nnn => exact execCall_setSt s b nnn
  | drwVxVyN x y n => exact execDrwVxVyN_setSt s b x y n
  | scd n => exact execScd_setSt s b n
  | ldVxK x => exact execLdVxK_setSt s b x
  | seVxKk | sneVxKk | seVxVy | sneVxVy => exact congrArg Host.Outcome.next (setSt_skipIf s b _)
  | orVxVy | andVxVy | xorVxVy => exact congrArg Host.Outcome.next (setSt_writeLogic s b _ _)
  | addVxVy | subVxVy | shrVxVy | subnVxVy | shlVxVy => exact congrArg Host.Outcome.next (setSt_writeFlagged s b _ _)
  | low | high | ldFVx | ldHfVx | ldBVx | ldRVx | ldVxR => exact congrArg Host.Outcome.next (ite_setSt b rfl rfl)
  | skpVx | sknpVx => exact congrArg Host.Outcome.next (ite_setSt b rfl (setSt_skipIf s b _))
  | ldMemVx x =>
    exact congrArg Host.Outcome.next (ite_setSt b (setSt_afterLoadStore (s.writeBytes s.i.toNat (s.regsUpTo x)) b x) rfl)
  | ldVxMem x =>
    exact congrArg Host.Outcome.next
      (ite_setSt b (setSt_afterLoadStore (s.setVUpTo x fun k => s.readByte (s.i.toNat + k)) b x) rfl)
  | _ => rfl

end

/-- Settles O43: no handler reads `ST`, and that of `LD ST,Vx` overwrites it. -/
theorem noInstructionReadsTheSoundTimer : Obligations.NoInstructionReadsTheSoundTimer := by
  refine fun i s b => ⟨fun hi => exec_setSt s b hi, fun ⟨x, hx⟩ => ?_⟩
  subst hx
  rfl

/-! ### The program counter after a handler (R113) -/

/-- Every way in which a handler leaves `PC`, on the state that it runs on. -/
def PcAfter (i : Instr) (s t : State) : Prop :=
  t.pc = s.pc ∨
  (t.pc = s.pc + 2 ∧ ((∃ x k, i = .seVxKk x k ∨ i = .sneVxKk x k) ∨ (∃ x y, i = .seVxVy x y ∨ i = .sneVxVy x y) ∨
    ∃ x, i = .skpVx x ∨ i = .sknpVx x)) ∨
  (t.pc = s.pc - 2 ∧ (∃ x, i = .ldVxK x) ∧ ∀ k (_ : k < 16), s.keyboard[k] = false) ∨
  (∃ a, (i = .jp a ∨ i = .call a) ∧ t.pc.toNat = a.toNat) ∨
  (∃ a, i = .jpV0Nnn a ∧ t.pc.toNat = a.toNat + (s.getV 0).toNat) ∨
  (i = .ret ∧ 0 < s.sp.toNat ∧ s.stack.toList[s.sp.toNat - 1]? = some t.pc)

/-- R278: the sum is that of two numbers below 2^12 and 2^8, and does not wrap. -/
theorem jpV0_target_toNat (nnn : Addr) (b : Byte) : (zext16 nnn + b.zeroExtend 16).toNat = nnn.toNat + b.toNat := by
  have hn := nnn.isLt
  have hb := b.isLt
  have hz : (b.zeroExtend 16).toNat = b.toNat := BitVec.toNat_setWidth_of_le (by decide)
  rw [BitVec.toNat_add_of_lt (by rw [zext16_toNat, hz]; omega), zext16_toNat, hz]

theorem skipIf_pc (s : State) (c : Bool) : (s.skipIf c).pc = s.pc ∨ (s.skipIf c).pc = s.pc + 2 := by
  rw [State.skipIf_eq, State.setPc_pc]
  cases c <;> simp

theorem execRet_pc {s t : State} (h : execRet s = .next t) : PcAfter .ret s t := by
  unfold execRet at h
  split_ifs at h with hsp hlt <;> cases h
  · exact .inl rfl
  · have hpos : s.sp.toNat ≠ 0 := fun h0 => hsp (BitVec.eq_of_toNat_eq h0)
    exact .inr (.inr (.inr (.inr (.inr ⟨rfl, by omega, by simp [hlt]⟩))))

theorem execCall_pc {nnn : Addr} {s t : State} (h : execCall nnn s = .next t) : PcAfter (.call nnn) s t := by
  unfold execCall at h
  split_ifs at h <;> cases h
  · exact .inl rfl
  · exact .inr (.inr (.inr (.inl ⟨nnn, .inr rfl, zext16_toNat nnn⟩)))

theorem execLdVxK_pc {x : Reg} {s t : State} (h : execLdVxK x s = .next t) : PcAfter (.ldVxK x) s t := by
  obtain rfl := Host.Outcome.next.inj h
  obtain ⟨hnone, hkeys⟩ | ⟨k, -, hsome, -, -⟩ := s.lowestKey_cases
  · rw [hnone]
    exact .inr (.inr (.inl ⟨rfl, ⟨x, rfl⟩, hkeys⟩))
  · rw [hsome]
    exact .inl rfl

theorem exec_pc {i : Instr} {s t : State} (h : exec i s = .next t) : PcAfter i s t := by
  cases i with
  | ret => exact execRet_pc h
  | call nnn => exact execCall_pc h
  | ldVxK x => exact execLdVxK_pc h
  | jp nnn => cases h; exact .inr (.inr (.inr (.inl ⟨nnn, .inl rfl, zext16_toNat nnn⟩)))
  | jpV0Nnn nnn => cases h; exact .inr (.inr (.inr (.inr (.inl ⟨nnn, rfl, jpV0_target_toNat nnn _⟩))))
  | seVxKk x k => cases h; exact (skipIf_pc s _).imp id fun hpc => .inl ⟨hpc, .inl ⟨x, k, .inl rfl⟩⟩
  | sneVxKk x k => cases h; exact (skipIf_pc s _).imp id fun hpc => .inl ⟨hpc, .inl ⟨x, k, .inr rfl⟩⟩
  | seVxVy x y => cases h; exact (skipIf_pc s _).imp id fun hpc => .inl ⟨hpc, .inr (.inl ⟨x, y, .inl rfl⟩)⟩
  | sneVxVy x y => cases h; exact (skipIf_pc s _).imp id fun hpc => .inl ⟨hpc, .inr (.inl ⟨x, y, .inr rfl⟩)⟩
  | skpVx x =>
    obtain rfl := Host.Outcome.next.inj h
    split
    · exact .inl rfl
    · exact (skipIf_pc s _).imp id fun hpc => .inl ⟨hpc, .inr (.inr ⟨x, .inl rfl⟩)⟩
  | sknpVx x =>
    obtain rfl := Host.Outcome.next.inj h
    split
    · exact .inl rfl
    · exact (skipIf_pc s _).imp id fun hpc => .inl ⟨hpc, .inr (.inr ⟨x, .inr rfl⟩)⟩
  | _ => exact .inl (exec_same h (f := .pc) (by simp [writtenFields]))

@[simp] theorem pushDisplay_pc (s : State) : s.pushDisplay.pc = s.pc := by rw [State.pushDisplay_eq]

/-- Settles O44: the handler runs with `PC` advanced by 2, which did not wrap, and the display push keeps what it leaves. -/
theorem pcAfterTheHandler : Obligations.PcAfterTheHandler := by
  intro rnd s t i hf hd h
  have hle : s.pc.toNat ≤ 0xFFE := by have := hf.2; omega
  rw [cycle_of_decode rnd hf hd] at h
  obtain ⟨u, hu, rfl⟩ := endCycle_next h
  have hpush : (if u.faultCause.isSome then u else u.pushDisplay).pc = u.pc := by split <;> simp
  have hnext : (s.pc + 2).toNat = s.pc.toNat + 2 := BitVec.toNat_add_of_lt (by change s.pc.toNat + 2 < 65536; omega)
  have hskip : (s.pc + 2 + 2).toNat = s.pc.toNat + 4 := by
    rw [BitVec.toNat_add_of_lt (by rw [hnext]; change s.pc.toNat + 2 + 2 < 65536; omega), hnext]
    rfl
  rw [hpush]
  refine ⟨hle, ?_⟩
  rcases exec_pc hu with hpc | ⟨hpc, hi⟩ | ⟨hpc, hi, hkeys⟩ | htarget | hsum | hret
  · exact .inl ((congrArg BitVec.toNat hpc).trans hnext)
  · exact .inr (.inl ⟨(congrArg BitVec.toNat hpc).trans hskip, hi⟩)
  · exact .inr (.inr (.inl ⟨hpc.trans (BitVec.add_sub_cancel s.pc 2), hi, hkeys⟩))
  · exact .inr (.inr (.inr (.inl htarget)))
  · exact .inr (.inr (.inr (.inr (.inl hsum))))
  · exact .inr (.inr (.inr (.inr (.inr hret))))

/-! ### Stops (R35) -/

/-- A handler completes, or is a CALL or RET at a depth for which there is no entry. -/
theorem exec_completes_or_stops (i : Instr) (s : State) :
    ((∃ t, exec i s = .next t) ∧ ¬ (16 < s.sp.toNat ∧ (i = .ret ∨ ∃ a, i = .call a))) ∨
    (exec i s = .fault .stackDepthImpossible ∧ 16 < s.sp.toNat ∧ (i = .ret ∨ ∃ a, i = .call a)) := by
  cases i with
  | ret =>
    change ((∃ t, execRet s = .next t) ∧ _) ∨ (execRet s = _ ∧ _)
    unfold execRet
    split_ifs with hsp hlt
    · exact .inl ⟨⟨_, rfl⟩, by simp [hsp]⟩
    · exact .inl ⟨⟨_, rfl⟩, by omega⟩
    · exact .inr ⟨rfl, by omega, .inl rfl⟩
  | call nnn =>
    change ((∃ t, execCall nnn s = .next t) ∧ _) ∨ (execCall nnn s = _ ∧ _)
    unfold execCall
    split_ifs with hsp hlt
    · exact .inl ⟨⟨_, rfl⟩, by simp [hsp]⟩
    · exact .inl ⟨⟨_, rfl⟩, by omega⟩
    · have hne : s.sp.toNat ≠ 16 := fun h16 => hsp (BitVec.eq_of_toNat_eq h16)
      exact .inr ⟨rfl, by omega, .inr ⟨nnn, rfl⟩⟩
  | drwVxVyN x y n =>
    refine .inl ⟨?_, by simp⟩
    change ∃ t, execDrwVxVyN x y n s = .next t
    unfold execDrwVxVyN
    split_ifs
    · exact ⟨_, rfl⟩
    · exact ⟨_, rfl⟩
    · cases s.config.drw0Normal <;> exact ⟨_, rfl⟩
  | scd n =>
    refine .inl ⟨?_, by simp⟩
    change ∃ t, execScd n s = .next t
    unfold execScd
    split_ifs
    · exact ⟨_, rfl⟩
    · cases s.config.scdNormal <;> exact ⟨_, rfl⟩
  | _ => exact .inl ⟨⟨_, rfl⟩, by simp⟩

/-- Settles O45: a stop and a completion exclude each other, and those are the only outcomes. -/
theorem onlyImpossibleDepthsStop : Obligations.OnlyImpossibleDepthsStop := by
  intro i s
  obtain ⟨⟨t, ht⟩, hdepth⟩ | ⟨hstop, hdepth⟩ := exec_completes_or_stops i s
  · simp [ht, hdepth]
  · exact ⟨⟨fun _ => hdepth, fun _ => ⟨_, hstop⟩⟩, by simp [hstop]⟩

end Sys2Proof.Machine
end

section
/-! What every step keeps (R56, log 2): the configuration, and the invariant. Both are shown of each handler and of each part of a cycle, and
then of every operation of the host. After that: which steps answer a next state at all. -/

namespace Sys2Proof.Machine

/-! ### The relation that composes -/

/-- The configuration is the same, and the invariant, if it held, still holds. -/
def Keeps (s t : State) : Prop := t.config = s.config ∧ (s.Inv → t.Inv)

namespace Keeps

variable {s t u : State}

theorem refl (s : State) : Keeps s s := ⟨rfl, id⟩

theorem trans (h : Keeps s t) (h' : Keeps t u) : Keeps s u := ⟨h'.1.trans h.1, h'.2 ∘ h.2⟩

/-- A change of fields that the invariant does not speak of. -/
theorem of_eq (hconfig : t.config = s.config) (hsp : t.sp = s.sp) (hmem : t.mem = s.mem) (hpixels : t.pixels = s.pixels) :
    Keeps s t := by
  refine ⟨hconfig, fun ⟨h1, h2, h3⟩ => ⟨?_, ?_, ?_⟩⟩
  · rwa [hsp]
  · rwa [hconfig, hmem]
  · rwa [hpixels]

theorem ite {p : Prop} [Decidable p] (ht : p → Keeps s t) (hu : ¬p → Keeps s u) : Keeps s (if p then t else u) := by
  split
  · next hp => exact ht hp
  · next hp => exact hu hp

theorem raiseHere (c : FaultCause) : Keeps s (s.raiseHere c) := of_eq rfl rfl rfl rfl

theorem setPc (w : Word) : Keeps s (s.setPc w) := of_eq rfl rfl rfl rfl

theorem setSp {b : Byte} (hb : s.sp.toNat ≤ 16 → b.toNat ≤ 16) : Keeps s (s.setSp b) :=
  ⟨rfl, fun ⟨hsp, hmem, hpixels⟩ => ⟨hb hsp, hmem, hpixels⟩⟩

theorem setPixels {p : List Nat} (hp : Pixels.wf s.pixels = true → Pixels.wf p = true) : Keeps s (s.setPixels p) :=
  ⟨rfl, fun ⟨hsp, hmem, hpixels⟩ => ⟨hsp, hmem, hp hpixels⟩⟩

/-- A store that the range check of R84 let pass. -/
theorem writeBytes {a : Nat} {bs : List Byte} (ha : a + bs.length ≤ 4096) : Keeps s (s.writeBytes a bs) :=
  ⟨rfl, fun ⟨hsp, hmem, hpixels⟩ => ⟨hsp, Memory.wf_writeBytes s.config hmem ha, hpixels⟩⟩

theorem switchMode (ext : Bool) : Keeps s (s.switchMode ext) := by
  refine ⟨rfl, fun ⟨hsp, hmem, hpixels⟩ => ⟨hsp, hmem, ?_⟩⟩
  rw [State.switchMode_pixels]
  split
  · exact Pixels.wf_nil
  · exact hpixels

theorem setVUpTo (x : Reg) (f : Nat → Byte) : Keeps s (s.setVUpTo x f) :=
  of_eq (s.setVUpTo_config x f) (s.setVUpTo_sp x f) (s.setVUpTo_mem x f) (s.setVUpTo_pixels x f)

theorem setRUpTo (x : Reg) (f : Nat → Byte) : Keeps s (s.setRUpTo x f) :=
  of_eq (s.setRUpTo_config x f) (s.setRUpTo_sp x f) (s.setRUpTo_mem x f) (s.setRUpTo_pixels x f)

theorem skipIf (c : Bool) : Keeps s (s.skipIf c) := ite (fun _ => setPc _) fun _ => refl s

theorem writeFlagged (x : Reg) (f : Flagged) : Keeps s (s.writeFlagged x f) := by
  rw [State.writeFlagged_eq]
  exact of_eq rfl rfl rfl rfl

theorem writeLogic (x : Reg) (b : Byte) : Keeps s (s.writeLogic x b) := by
  rw [State.writeLogic_eq]
  exact of_eq rfl rfl rfl rfl

theorem afterLoadStore (x : Reg) : Keeps s (s.afterLoadStore x) := by
  rw [State.afterLoadStore_eq]
  exact of_eq rfl rfl rfl rfl

/-- Every point of a sprite lies in the picture, and so in the buffer (R182). -/
theorem drawSprite (xs ys : Byte) (rows cols : Nat) (rowbits : Nat → Nat) : Keeps s (s.drawSprite xs ys rows cols rowbits) := by
  refine (setPixels fun hp => Pixels.wf_xorPoints hp false fun k hk => ?_).trans (of_eq rfl rfl rfl rfl)
  exact (Pixels.spritePoints_lt s.width_pos s.height_pos hk).trans_le s.width_mul_height_le

theorem drawRows8 (x y : Reg) (n : Nat) : Keeps s (s.drawRows8 x y n) := ite (fun _ => drawSprite ..) fun _ => raiseHere _

theorem drawRows16 (x y : Reg) : Keeps s (s.drawRows16 x y) := ite (fun _ => drawSprite ..) fun _ => raiseHere _

theorem scrollDownBy (n : Nat) : Keeps s (s.scrollDownBy n) := setPixels fun hp => Pixels.wf_scrollDown hp s.isPicture n

theorem pushDisplay : Keeps s s.pushDisplay := by
  rw [State.pushDisplay_eq]
  exact of_eq rfl rfl rfl rfl

theorem timerStep : Keeps s s.timerStep :=
  of_eq s.timerStep_config s.timerStep_sp s.timerStep_mem s.timerStep_pixels

theorem timerStepIf (due : Bool) : Keeps s (s.timerStepIf due) := ite (fun _ => timerStep) fun _ => refl s

end Keeps

/-! ### The handlers -/

theorem execRet_keeps {s t : State} (h : execRet s = .next t) : Keeps s t := by
  unfold execRet at h
  split_ifs at h with hsp hlt <;> cases h
  · exact .raiseHere _
  · refine (Keeps.setSp fun hle => ?_).trans (.setPc _)
    have hpos : s.sp.toNat ≠ 0 := fun h0 => hsp (BitVec.eq_of_toNat_eq h0)
    rw [BitVec.toNat_sub_of_le (by change 1 ≤ s.sp.toNat; omega)]
    exact (Nat.sub_le _ _).trans hle

theorem execCall_keeps {nnn : Addr} {s t : State} (h : execCall nnn s = .next t) : Keeps s t := by
  unfold execCall at h
  split_ifs at h with hsp hlt <;> cases h
  · exact .raiseHere _
  · have hpush : Keeps s (s.setStack s.sp.toNat s.pc) := .of_eq rfl rfl rfl rfl
    refine (hpush.trans (.setSp fun _ => ?_)).trans (.setPc _)
    rw [BitVec.toNat_add_of_lt (by change s.sp.toNat + 1 < 256; omega)]
    exact hlt

theorem execDrwVxVyN_keeps {x y : Reg} {n : Nibble} {s t : State} (h : execDrwVxVyN x y n s = .next t) : Keeps s t := by
  unfold execDrwVxVyN at h
  split_ifs at h
  · cases h; exact .drawRows8 x y n.val
  · cases h; exact .drawRows16 x y
  · split at h <;> cases h
    · exact .drawRows16 x y
    · exact .of_eq rfl rfl rfl rfl
    · exact .raiseHere _

theorem execScd_keeps {n : Nibble} {s t : State} (h : execScd n s = .next t) : Keeps s t := by
  unfold execScd at h
  split_ifs at h
  · cases h; exact .scrollDownBy n.val
  · split at h <;> cases h
    · exact .raiseHere _
    · exact .refl s
    · exact .scrollDownBy n.val

theorem execLdVxK_keeps {x : Reg} {s t : State} (h : execLdVxK x s = .next t) : Keeps s t := by
  obtain rfl := Host.Outcome.next.inj h
  split
  · exact .setPc _
  · exact .of_eq rfl rfl rfl rfl

/-- V0..Vx are as many bytes as the range check of the store looks at (R245). -/
@[simp] theorem length_regsUpTo (s : State) (x : Reg) : (s.regsUpTo x).length = x.val + 1 := by
  simp [State.regsUpTo]

theorem dataRangeOk_iff (s : State) (last : Nat) : s.dataRangeOk last = true ↔ s.i.toNat + last ≤ 0xFFF := by
  simp [State.dataRangeOk]

theorem exec_keeps {i : Instr} {s t : State} (h : exec i s = .next t) : Keeps s t := by
  cases i with
  | ret => exact execRet_keeps h
  | call nnn => exact execCall_keeps h
  | drwVxVyN x y n => exact execDrwVxVyN_keeps h
  | scd n => exact execScd_keeps h
  | ldVxK x => exact execLdVxK_keeps h
  | cls => cases h; exact .setPixels fun hp => Pixels.wf_clearBelow hp _
  | scr => cases h; exact .setPixels fun hp => Pixels.wf_scrollRight hp s.isPicture
  | scl => cases h; exact .setPixels fun hp => Pixels.wf_scrollLeft hp s.isPicture
  | low => cases h; exact .ite (fun _ => .switchMode _) fun _ => .refl s
  | high => cases h; exact .ite (fun _ => .refl s) fun _ => .switchMode _
  | seVxKk | sneVxKk | seVxVy | sneVxVy => cases h; exact .skipIf _
  | orVxVy | andVxVy | xorVxVy => cases h; exact .writeLogic _ _
  | addVxVy | subVxVy | shrVxVy | subnVxVy | shlVxVy => cases h; exact .writeFlagged _ _
  | skpVx | sknpVx => cases h; exact .ite (fun _ => .raiseHere _) fun _ => .skipIf _
  | ldFVx | ldHfVx => cases h; exact .ite (fun _ => .raiseHere _) fun _ => .of_eq rfl rfl rfl rfl
  | ldRVx => cases h; exact .ite (fun _ => .raiseHere _) fun _ => .setRUpTo _ _
  | ldVxR => cases h; exact .ite (fun _ => .raiseHere _) fun _ => .setVUpTo _ _
  | ldBVx x =>
    cases h
    refine .ite (fun hr => .writeBytes ?_) fun _ => .raiseHere _
    have := (dataRangeOk_iff s 2).1 hr
    change s.i.toNat + 3 ≤ 4096
    omega
  | ldMemVx x =>
    cases h
    refine .ite (fun hr => (Keeps.writeBytes ?_).trans (.afterLoadStore x)) fun _ => .raiseHere _
    have := (dataRangeOk_iff s x.val).1 hr
    rw [length_regsUpTo]
    omega
  | ldVxMem x =>
    cases h
    exact .ite (fun _ => (Keeps.setVUpTo _ _).trans (.afterLoadStore x)) fun _ => .raiseHere _
  | _ => cases h; exact .of_eq rfl rfl rfl rfl

/-! ### The operations of the host -/

theorem cycle_keeps {rnd : Byte} {s t : State} (h : cycle rnd s = .next t) : Keeps s t := by
  rcases cycle_next h with ⟨f, -, rfl⟩ | ⟨-, -, rfl⟩ | ⟨-, i, u, -, hu, rfl⟩
  · exact .of_eq rfl rfl rfl rfl
  · exact .of_eq rfl rfl rfl rfl
  · have hfetch : Keeps s { s.fetched with rnd := rnd } := .of_eq rfl rfl rfl rfl
    exact (hfetch.trans (exec_keeps hu)).trans (.ite (fun _ => .refl u) fun _ => .pushDisplay)

theorem tick_keeps {i : TickInput} {s t : State} (h : tick i s = .next t) : Keeps s t := by
  have hsample : Keeps s (s.setKeyboard i.keys) := .of_eq rfl rfl rfl rfl
  obtain ⟨-, rfl⟩ | ⟨-, -, rfl⟩ | ⟨-, -, -, u, hu, ht⟩ := tick_next h
  · exact .refl t
  · exact hsample.trans (.timerStepIf _)
  · obtain rfl | rfl := ht
    · exact hsample.trans (cycle_keeps hu)
    · exact (hsample.trans (cycle_keeps hu)).trans .timerStep

theorem singleStep_keeps {rnd : Byte} {s t : State} (h : singleStep rnd s = .next t) : Keeps s t := by
  unfold singleStep at h
  split at h
  · exact cycle_keeps h
  · cases h; exact .refl s

theorem freeStep_keeps {s t : State} (h : freeStep s = .next t) : Keeps s t := by
  unfold freeStep at h
  split at h
  · have hdraw : Keeps s { s with draws := s.draws + 1 } := .of_eq rfl rfl rfl rfl
    exact hdraw.trans (cycle_keeps h)
  · cases h; exact .refl s

/-- R381: an image that is accepted ends in memory, and the rest of the state is that of reset. -/
theorem withProgram_inv {s : State} {image : List Byte} (h : image.length ≤ 3584) : (s.withProgram image).Inv :=
  ⟨Nat.zero_le 16, Memory.wf_writeBytes s.config (Memory.wf_nil s.config) (by omega), Pixels.wf_nil⟩

theorem loadProgram_keeps (image : Option (List Byte)) (s : State) : Keeps s (loadProgram image s) := by
  by_cases h : ∃ bytes, image = some bytes ∧ bytes.length ≤ 3584
  · obtain ⟨bytes, rfl, hle⟩ := h
    rw [loadProgram_of_le s hle]
    exact ⟨rfl, fun _ => withProgram_inv hle⟩
  · rw [loadProgram_of_refused s h]
    exact .of_eq rfl rfl rfl rfl

/-- R386: what a valid stream says. -/
theorem validStream_iff (b : Array Byte) : validStream b = true ↔
    b.size = 12353 ∧ b.getD 20 0 ≤ 16 ∧ b.getD 4159 0 ≤ 1 ∧ b.getD 12352 0 ≤ 1 ∧ ∀ k, k < 8192 → b.getD (4160 + k) 0 ≤ 1 := by
  unfold validStream
  generalize 8192 = n
  simp only [Bool.and_eq_true, beq_iff_eq, decide_eq_true_eq, List.all_eq_true, List.mem_range, and_assoc]

theorem wf_filter_range (p : Nat → Bool) : Pixels.wf ((List.range 8192).filter p) = true :=
  (Pixels.wf_iff _).2 ⟨List.pairwise_lt_range.filter p, fun _ hk => List.mem_range.1 (List.mem_filter.1 hk).1⟩

@[simp] theorem withStream_config (s : State) (b : Array Byte) : (s.withStream b).config = s.config := rfl

@[simp] theorem withStream_mem (s : State) (b : Array Byte) :
    (s.withStream b).mem = Memory.ofContents s.config fun a => b.getD (55 + a) 0 := by simp only [State.withStream]

@[simp] theorem withStream_pixels (s : State) (b : Array Byte) :
    (s.withStream b).pixels = (List.range 8192).filter fun k => b.getD (4160 + k) 0 == 1 := by
  simp only [State.withStream]

/-- R386: a valid stream has `SP` at most 16, and the lists of memory and pixels are made in their canonical form. -/
theorem withStream_inv {s : State} {b : Array Byte} (h : validStream b = true) : (s.withStream b).Inv := by
  obtain ⟨-, hsp, -⟩ := (validStream_iff b).1 h
  refine ⟨hsp, ?_, ?_⟩
  · rw [withStream_config, withStream_mem]
    exact Memory.wf_ofContents _ _
  · rw [withStream_pixels]
    exact wf_filter_range _

theorem loadState_keeps (stream : Option (List Byte)) (s : State) : Keeps s (loadState stream s) := by
  by_cases h : ∃ bytes, stream = some bytes ∧ validStream bytes.toArray = true
  · obtain ⟨bytes, rfl, hv⟩ := h
    rw [loadState_of_valid s hv]
    exact ⟨rfl, fun _ => withStream_inv hv⟩
  · rw [loadState_of_refused s h]
    exact .of_eq rfl rfl rfl rfl

theorem perform_keeps {op : HostOp} {s t : State} (h : perform op s = .next t) : Keeps s t := by
  cases op with
  | tick i => exact tick_keeps h
  | singleStep rnd => exact singleStep_keeps h
  | pause b => cases h; exact .ite (fun _ => .of_eq rfl rfl rfl rfl) fun _ => .refl s
  | loadProgram image => cases h; exact loadProgram_keeps image s
  | loadState stream => cases h; exact loadState_keeps stream s
  | saveState writable => cases h; exact .ite (fun _ => .of_eq rfl rfl rfl rfl) fun _ => .of_eq rfl rfl rfl rfl

theorem step_keeps {s t : State} (h : step s = .next t) : Keeps s t := by
  rw [step_eq] at h
  split at h
  · exact freeStep_keeps h
  · next op rest _ =>
    have htaken : Keeps s { s with pending := rest } := .of_eq rfl rfl rfl rfl
    exact htaken.trans (perform_keeps h)

/-- Settles O56: handler by handler, and then operation by operation, the relation `Keeps` composes. -/
theorem stepKeepsInvariant : Obligations.StepKeepsInvariant := fun _ _ hs h => (step_keeps h).2 hs

/-- Settles O59: the other half of the same relation. -/
theorem configurationNeverChanges : Obligations.ConfigurationNeverChanges := fun _ _ h => (step_keeps h).1

/-- Settles O57: at reset `SP` is 0 and both lists are empty. -/
theorem resetMeetsInvariant : Obligations.ResetMeetsInvariant := ⟨Nat.zero_le 16, Memory.wf_nil _, Pixels.wf_nil⟩

/-! ### Steps that answer a next state (R338, log 14) -/

/-- The one refusal of the model: under `HAS_SYS` a live engine that fetches a word of the SYS space. -/
def RefusesSys (s : State) : Prop :=
  s.config.hasSys = true ∧ s.live = true ∧ s.fetchable ∧ s.wordAtPc.toNat < 0x1000 ∧ ∀ r ∈ table, r.selects s.wordAtPc = false

/-- At a possible depth, a cycle of a live engine answers a next state unless it fetches a SYS word under `HAS_SYS`. -/
theorem cycle_answers {s : State} (rnd : Byte) (hsp : s.sp.toNat ≤ 16) (hlive : s.live = true) :
    (∃ t, cycle rnd s = .next t) ∨ (RefusesSys s ∧ cycle rnd s = .refused .sysNotDescribed) := by
  cases hf : s.fetchFault with
  | some f => exact .inl ⟨_, by rw [cycle, hf]⟩
  | none =>
    have hfetch := (fetchFault_eq_none_iff s).1 hf
    cases hd : decodeWord s.wordAtPc with
    | ok i =>
      obtain ⟨⟨t, ht⟩, -⟩ | ⟨-, hdepth, -⟩ := exec_completes_or_stops i (s.afterFetch rnd)
      · exact .inl ⟨_, by rw [cycle_of_decode rnd hfetch hd, ht, endCycle]⟩
      · exact absurd hdepth (Nat.not_lt.2 hsp)
    | error e =>
      rw [cycle_of_no_row rnd hfetch hd]
      split_ifs with hsys
      · obtain ⟨rfl, hhas⟩ := hsys
        exact .inr ⟨⟨hhas, hlive, hfetch, toNat_lt_of_sysSpace hd, (decodeWord_error hd).1⟩, rfl⟩
      · exact .inl ⟨_, rfl⟩

theorem afterCycle_answers (i : TickInput) (u : State) : ∃ t, afterCycle i (.next u) = .next t := by
  simp only [afterCycle]
  cases u.engine <;> exact ⟨_, rfl⟩

theorem tick_answers {s : State} (i : TickInput) (hsp : s.sp.toNat ≤ 16) :
    (∃ t, tick i s = .next t) ∨ (RefusesSys s ∧ tick i s = .refused .sysNotDescribed) := by
  simp only [tick]
  split_ifs with hlive hcycle
  · obtain ⟨u, hu⟩ | ⟨hsys, hrefused⟩ := cycle_answers (s := s.setKeyboard i.keys) i.rnd hsp hlive
    · rw [hu]
      exact .inl (afterCycle_answers i u)
    · rw [hrefused]
      exact .inr ⟨hsys, rfl⟩
  · exact .inl ⟨_, rfl⟩
  · exact .inl ⟨_, rfl⟩

theorem perform_answers {s : State} (op : HostOp) (hsp : s.sp.toNat ≤ 16) :
    (∃ t, perform op s = .next t) ∨ (RefusesSys s ∧ perform op s = .refused .sysNotDescribed) := by
  cases op with
  | tick i => exact tick_answers i hsp
  | singleStep rnd =>
    simp only [perform, singleStep]
    split_ifs with hlive
    · exact cycle_answers rnd hsp hlive
    · exact .inl ⟨_, rfl⟩
  | _ => exact .inl ⟨_, rfl⟩

/-- Settles O58: under the invariant no depth is impossible, so the only step without a next state is the refusal of a SYS word. -/
theorem stepNeverStops : Obligations.StepNeverStops := by
  rintro s ⟨hsp, -, -⟩
  have answers : (∃ t, step s = .next t) ∨ (RefusesSys s ∧ step s = .refused .sysNotDescribed) := by
    rw [step_eq]
    split
    · unfold freeStep
      split_ifs with hlive
      · exact cycle_answers _ (s := { s with draws := s.draws + 1 }) hsp hlive
      · exact .inl ⟨_, rfl⟩
    · next op rest _ => exact perform_answers op (s := { s with pending := rest }) hsp
  obtain hnext | ⟨⟨hhas, hlive, hfetch, hword, hrow⟩, hrefused⟩ := answers
  · exact .inl hnext
  · exact .inr ⟨hhas, hlive, hfetch, hword, hrow, hrefused⟩

end Sys2Proof.Machine
end

section
/-! The display instructions (R181 to R187): the pixels after a clear, a scroll and a draw, by row and column, and the checks of a draw. -/

namespace Sys2Proof.Machine

/-! ### The entry of a pixel (R44) -/

theorem index_div {w x : Nat} (y : Nat) (hx : x < w) : (y * w + x) / w = y := by
  rw [Nat.add_comm, Nat.add_mul_div_right _ _ (by omega), Nat.div_eq_of_lt hx, Nat.zero_add]

theorem index_mod {w x : Nat} (y : Nat) (hx : x < w) : (y * w + x) % w = x := by
  rw [Nat.add_comm, Nat.add_mul_mod_self_right, Nat.mod_eq_of_lt hx]

section

variable {p : List Nat} {w h px py : Nat} (hpic : Pixels.IsPicture w h) (hx : px < w) (hy : py < h)

include hpic hx hy

/-- R185: row `y` shows what row `y - n` showed. -/
theorem lit_scrollDown_index (n : Nat) : Pixels.lit (Pixels.scrollDown p w h n) (py * w + px) =
    (decide (n ≤ py) && Pixels.lit p ((py - n) * w + px)) := by
  rw [Pixels.lit_scrollDown p hpic, if_pos (State.index_lt hx hy), index_div py hx]
  by_cases hn : n ≤ py
  · obtain ⟨d, rfl⟩ := Nat.exists_eq_add_of_le hn
    have hrow : (n + d) * w + px - n * w = (n + d - n) * w + px := by
      rw [Nat.add_sub_cancel_left, Nat.add_mul]
      omega
    rw [hrow]
  · simp [hn]

/-- R186: column `x` shows what column `x - 4` showed. -/
theorem lit_scrollRight_index : Pixels.lit (Pixels.scrollRight p w h) (py * w + px) =
    (decide (4 ≤ px) && Pixels.lit p (py * w + (px - 4))) := by
  rw [Pixels.lit_scrollRight p hpic, if_pos (State.index_lt hx hy), index_mod py hx]
  by_cases hcol : 4 ≤ px
  · rw [Nat.add_sub_assoc hcol]
  · simp [hcol]

/-- R187: column `x` shows what column `x + 4` showed. -/
theorem lit_scrollLeft_index : Pixels.lit (Pixels.scrollLeft p w h) (py * w + px) =
    (decide (px + 4 < w) && Pixels.lit p (py * w + (px + 4))) := by
  rw [Pixels.lit_scrollLeft p hpic, if_pos (State.index_lt hx hy), index_mod py hx, Nat.add_assoc]

end

/-! ### Clear and scroll -/

/-- Settles O22: the visible entries are those below `Width() * Height()`, and the filter keeps the others. -/
theorem clsClearsThePicture : Obligations.ClsClearsThePicture := by
  refine fun s => ⟨_, rfl, fun k hk => ?_, fun k hk => ?_, rfl, unchangedBut_setPixels s _⟩
  · rw [State.setPixels_pixels, Pixels.lit_clearBelow, decide_eq_false (Nat.not_le.2 hk), Bool.false_and]
  · rw [State.setPixels_pixels, Pixels.lit_clearBelow, decide_eq_true hk, Bool.true_and]

section

variable {s : State} (n : Nibble)

/-- R185: the scroll, in extended mode or where `SCD_NORMAL` asks for it. -/
theorem exec_scd_of_scroll (h : s.extendedMode = true ∨ s.config.scdNormal = .scroll) :
    exec (.scd n) s = .next (s.scrollDownBy n.val) := by
  change execScd n s = _
  unfold execScd
  split_ifs with hext
  · rfl
  · rw [h.resolve_left hext]

theorem exec_scd_of_noop (hext : s.extendedMode = false) (h : s.config.scdNormal = .noop) : exec (.scd n) s = .next s := by
  change execScd n s = _
  simp [execScd, hext, h]

theorem exec_scd_of_fault (hext : s.extendedMode = false) (h : s.config.scdNormal = .fault) :
    exec (.scd n) s = .next (s.raiseHere .modeFault) := by
  change execScd n s = _
  simp [execScd, hext, h]

end

/-- Settles O27: in each of the three cases the handler is one update, and the scroll moves each pixel of the picture by whole rows. -/
theorem scdScrollsDown : Obligations.ScdScrollsDown := by
  refine fun n s => ⟨fun h => ⟨_, exec_scd_of_scroll n h, fun px py hx hy => ?pixel, fun k hk => ?outside, rfl,
    unchangedBut_setPixels s _⟩, exec_scd_of_noop n, fun hext h => ⟨_, exec_scd_of_fault n hext h, raisesOnly_raiseHere s _⟩⟩
  case pixel => exact lit_scrollDown_index s.isPicture hx hy n.val
  case outside => exact (Pixels.lit_scrollDown _ s.isPicture _ k).trans (if_neg (Nat.not_lt.2 hk))

/-- Settles O28: both scrolls move each pixel of the picture within its row. -/
theorem sidewaysScrollsMoveFourColumns : Obligations.SidewaysScrollsMoveFourColumns := by
  refine fun s => ⟨⟨_, rfl, fun px py hx hy => lit_scrollRight_index s.isPicture hx hy, fun k hk => ?right, rfl,
    unchangedBut_setPixels s _⟩, ⟨_, rfl, fun px py hx hy => lit_scrollLeft_index s.isPicture hx hy, fun k hk => ?left, rfl,
    unchangedBut_setPixels s _⟩⟩
  case right => exact (Pixels.lit_scrollRight _ s.isPicture k).trans (if_neg (Nat.not_lt.2 hk))
  case left => exact (Pixels.lit_scrollLeft _ s.isPicture k).trans (if_neg (Nat.not_lt.2 hk))

/-! ### Draw (R182) -/

section

variable {w h xs ys rows cols : Nat} {rowbits : Nat → Nat} {bitAt : Nat → Nat → Bool}
  (hbits : ∀ r < rows, ∀ c < cols, (rowbits r).testBit (cols - 1 - c) = bitAt r c)

include hbits

/-- The points of a sprite are the entries of the pixels that it covers. -/
theorem mem_spritePoints_iff_covers (k : Nat) : k ∈ Pixels.spritePoints w h xs ys rows cols rowbits ↔
    ∃ px py, spriteCovers w h xs ys rows cols bitAt px py ∧ k = py * w + px := by
  rw [Pixels.mem_spritePoints]
  constructor
  · rintro ⟨r, hr, c, hc, hb, rfl⟩
    exact ⟨_, _, ⟨r, hr, c, hc, (hbits r hr c hc).symm.trans hb, rfl, rfl⟩, rfl⟩
  · rintro ⟨_, _, ⟨r, hr, c, hc, hb, rfl, rfl⟩, rfl⟩
    exact ⟨r, hr, c, hc, (hbits r hr c hc).trans hb, rfl⟩

theorem exists_mem_spritePoints {q : Nat → Prop} : (∃ k ∈ Pixels.spritePoints w h xs ys rows cols rowbits, q k) ↔
    ∃ px py, spriteCovers w h xs ys rows cols bitAt px py ∧ q (py * w + px) := by
  simp only [mem_spritePoints_iff_covers hbits]
  constructor
  · rintro ⟨_, ⟨px, py, hcovers, rfl⟩, hq⟩
    exact ⟨px, py, hcovers, hq⟩
  · rintro ⟨px, py, hcovers, hq⟩
    exact ⟨_, ⟨px, py, hcovers, rfl⟩, hq⟩

/-- A pixel of the picture is covered exactly when its entry is a point of the sprite. -/
theorem index_mem_spritePoints {px py : Nat} (hx : px < w) :
    py * w + px ∈ Pixels.spritePoints w h xs ys rows cols rowbits ↔ spriteCovers w h xs ys rows cols bitAt px py := by
  have hw : 0 < w := by omega
  rw [mem_spritePoints_iff_covers hbits]
  constructor
  · rintro ⟨qx, qy, hcovers, heq⟩
    obtain ⟨_, -, c, -, -, hqx, -⟩ := id hcovers
    obtain ⟨rfl, rfl⟩ := Pixels.index_inj hx (hqx ▸ Nat.mod_lt _ hw) heq
    exact hcovers
  · exact fun hcovers => ⟨px, py, hcovers, rfl⟩

end

/-- No sprite of the machine is larger than a picture, so that its points are distinct (R182). -/
theorem nodup_points (s : State) (xs ys : Nat) {rows cols : Nat} (rowbits : Nat → Nat) (hrows : rows ≤ 16) (hcols : cols ≤ 16) :
    (Pixels.spritePoints s.width s.height xs ys rows cols rowbits).Nodup := by
  obtain ⟨hw, hh⟩ | ⟨hw, hh⟩ := s.isPicture <;>
    exact Pixels.nodup_spritePoints xs ys rowbits (by omega) (by omega) s.width_pos

/-- R183: VF is the collision. -/
theorem getV_drawSprite_vF (s : State) (xs ys : Byte) (rows cols : Nat) (rowbits : Nat → Nat) :
    (s.drawSprite xs ys rows cols rowbits).getV 15 = if (Pixels.xorPoints s.pixels false
      (Pixels.spritePoints s.width s.height xs.toNat ys.toNat rows cols rowbits)).2 then 1 else 0 :=
  (s.getV_drawSprite ..).trans (if_pos rfl)

/-- R182, R183: drawing has the effect that the claims describe, once its row numbers hold the sprite's bits. -/
theorem drawsSprite_drawSprite {s : State} (hs : s.Inv) (xs ys : Byte) {rows cols : Nat} {rowbits : Nat → Nat}
    {bitAt : Nat → Nat → Bool} (hrows : rows ≤ 16) (hcols : cols ≤ 16)
    (hbits : ∀ r < rows, ∀ c < cols, (rowbits r).testBit (cols - 1 - c) = bitAt r c) :
    drawsSprite xs.toNat ys.toNat rows cols bitAt s (s.drawSprite xs ys rows cols rowbits) := by
  obtain ⟨-, -, hpixels⟩ := hs
  have hsorted := Pixels.sorted_of_wf hpixels
  have hnodup := nodup_points s xs.toNat ys.toNat rowbits hrows hcols
  have hlit := Pixels.lit_xorPoints hsorted false hnodup
  have hcollide : (∃ px py, spriteCovers s.width s.height xs.toNat ys.toNat rows cols bitAt px py ∧ s.pixel px py = true) ↔
      (Pixels.xorPoints s.pixels false
        (Pixels.spritePoints s.width s.height xs.toNat ys.toNat rows cols rowbits)).2 = true := by
    rw [Pixels.collide_xorPoints hsorted false hnodup]
    simp only [Bool.false_eq_true, false_or]
    exact (exists_mem_spritePoints (q := fun k => Pixels.lit s.pixels k = true) hbits).symm
  refine ⟨fun px py hx hy => ⟨fun hcovers => ?covered, fun hcovers => ?uncovered⟩, fun k hk => ?outside, fun h => ?hit,
    fun h => ?miss, fun r hr => ?registers, rfl, unchangedBut_drawSprite s _ _ _ _ _⟩
  case covered => exact (hlit _).trans (if_pos ((index_mem_spritePoints hbits hx).2 hcovers))
  case uncovered => exact (hlit _).trans (if_neg fun hmem => hcovers ((index_mem_spritePoints hbits hx).1 hmem))
  case outside =>
    exact (hlit k).trans (if_neg fun hmem => Nat.not_lt.2 hk (Pixels.spritePoints_lt s.width_pos s.height_pos hmem))
  case hit => exact (getV_drawSprite_vF ..).trans (if_pos (hcollide.1 h))
  case miss => exact (getV_drawSprite_vF ..).trans (if_neg fun hc => h (hcollide.2 hc))
  case registers => exact (s.getV_drawSprite ..).trans (if_neg hr)

/-! ### The forms of DRW and their checks (R183, R184) -/

section

variable {s : State} (x y : Reg)

theorem exec_drw_rows {n : Nibble} (hn : 0 < n.val) (hr : s.i.toNat + (n.val - 1) ≤ 0xFFF) :
    exec (.drwVxVyN x y n) s = .next (s.drawSprite (s.getV x) (s.getV y) n.val 8 s.spriteRow8) := by
  change execDrwVxVyN x y n s = _
  rw [execDrwVxVyN, if_pos hn, State.drawRows8, if_pos ((dataRangeOk_iff s _).2 hr)]

theorem exec_drw_rows_of_range {n : Nibble} (hn : 0 < n.val) (hr : 0xFFF < s.i.toNat + (n.val - 1)) :
    exec (.drwVxVyN x y n) s = .next (s.raiseHere .memRangeFault) := by
  change execDrwVxVyN x y n s = _
  rw [execDrwVxVyN, if_pos hn, State.drawRows8, if_neg fun h => Nat.not_le.2 hr ((dataRangeOk_iff s _).1 h)]

/-- R184: the `16 × 16` form, in extended mode or where `DRW0_NORMAL` asks for it. -/
theorem exec_drw_zero (h : s.extendedMode = true ∨ s.config.drw0Normal = .sprite16) :
    exec (.drwVxVyN x y 0) s = .next (s.drawRows16 x y) := by
  change execDrwVxVyN x y 0 s = _
  rw [execDrwVxVyN, if_neg (show ¬ 0 < (0 : Nibble).val from Nat.lt_irrefl 0)]
  split_ifs with hext
  · rfl
  · rw [h.resolve_left hext]

theorem exec_drw_zero_of_fault (hext : s.extendedMode = false) (h : s.config.drw0Normal = .fault) :
    exec (.drwVxVyN x y 0) s = .next (s.raiseHere .modeFault) := by
  change execDrwVxVyN x y 0 s = _
  simp [execDrwVxVyN, hext, h]

theorem exec_drw_zero_of_nothing (hext : s.extendedMode = false) (h : s.config.drw0Normal = .nothing) :
    exec (.drwVxVyN x y 0) s = .next ((s.setPixels s.pixels).setV vF 0) := by
  change execDrwVxVyN x y 0 s = _
  simp [execDrwVxVyN, hext, h]

theorem drawRows16_of_le (hr : s.i.toNat + 31 ≤ 0xFFF) :
    s.drawRows16 x y = s.drawSprite (s.getV x) (s.getV y) 16 16 s.spriteRow16 := if_pos ((dataRangeOk_iff s _).2 hr)

theorem drawRows16_of_range (hr : 0xFFF < s.i.toNat + 31) : s.drawRows16 x y = s.raiseHere .memRangeFault :=
  if_neg fun h => Nat.not_le.2 hr ((dataRangeOk_iff s _).1 h)

end

/-- Settles O23: the form of 8 columns is one draw of the bytes at `I`. -/
theorem drwDrawsRows : Obligations.DrwDrawsRows := fun x y n s hs hn hr =>
  ⟨_, exec_drw_rows x y hn hr, drawsSprite_drawSprite hs _ _ (Nat.le_of_lt n.isLt) (by decide)
    fun r _ c _ => spriteRow8_bit s r c⟩

/-- Settles O24: the form of 16 columns is one draw of the byte pairs at `I`. -/
theorem drwDrawsWideRows : Obligations.DrwDrawsWideRows := fun x y s hs hmode hr =>
  ⟨_, (exec_drw_zero x y hmode).trans (congrArg Host.Outcome.next (drawRows16_of_le x y hr)),
    drawsSprite_drawSprite hs _ _ (Nat.le_refl 16) (Nat.le_refl 16) fun r _ _ hc => spriteRow16_bit s r hc⟩

/-- Settles O25: each check is an equation of the handler; without a picture to draw, the flag and `DisplayChanged` are written. -/
theorem drwChecksBeforeDrawing : Obligations.DrwChecksBeforeDrawing := by
  refine fun x y n s => ⟨fun hn hr => ⟨_, exec_drw_rows_of_range x y hn hr, raisesOnly_raiseHere s _⟩,
    fun hmode hr => ⟨_, exec_drw_zero x y hmode, ?range⟩,
    fun hext h => ⟨_, exec_drw_zero_of_fault x y hext h, raisesOnly_raiseHere s _⟩,
    fun hext h => ⟨_, exec_drw_zero_of_nothing x y hext h, by simp [vF], fun r hr => ?other, rfl, ?frame⟩⟩
  case range =>
    rw [drawRows16_of_range x y hr]
    exact raisesOnly_raiseHere s _
  case other => simp [vF, hr]
  case frame =>
    intro f hf
    by_cases hp : f = .pixels
    · subst hp; rfl
    · exact unchangedBut_trans (unchangedBut_setPixels s s.pixels) (unchangedBut_setV _ vF 0) f (by simp_all)

/-! ### Drawing twice (R183) -/

/-- Drawing the same distinct points twice restores the buffer. -/
theorem xorPoints_twice {p : List Nat} (hp : Pixels.wf p = true) {ks : List Nat} (hnodup : ks.Nodup)
    (hlt : ∀ k ∈ ks, k < 8192) : (Pixels.xorPoints (Pixels.xorPoints p false ks).1 false ks).1 = p := by
  have hsorted := Pixels.sorted_of_wf hp
  have hp' := Pixels.wf_xorPoints hp false hlt
  refine Pixels.ext_of_wf (Pixels.wf_xorPoints hp' false hlt) hp fun k => ?_
  rw [Pixels.lit_xorPoints (Pixels.sorted_of_wf hp') false hnodup, Pixels.lit_xorPoints hsorted false hnodup]
  split_ifs
  · exact Bool.not_not _
  · rfl

/-- The second draw collides with the points that the first one lit. -/
theorem collide_xorPoints_twice {p : List Nat} (hp : Pixels.wf p = true) {ks : List Nat} (hnodup : ks.Nodup) :
    (Pixels.xorPoints (Pixels.xorPoints p false ks).1 false ks).2 = true ↔ ∃ k ∈ ks, Pixels.lit p k = false := by
  have hsorted := Pixels.sorted_of_wf hp
  rw [Pixels.collide_xorPoints (Pixels.sorted_xorPoints hsorted false ks) false hnodup]
  simp only [Bool.false_eq_true, false_or]
  refine exists_congr fun k => and_congr_right fun hk => ?_
  rw [Pixels.lit_xorPoints hsorted false hnodup, if_pos hk, Bool.not_eq_true']

/-- The entries that the `8 × n` form of `DRW Vx,Vy,n` draws. -/
def State.points8 (s : State) (x y : Reg) (n : Nat) : List Nat :=
  Pixels.spritePoints s.width s.height (s.getV x).toNat (s.getV y).toNat n 8 s.spriteRow8

/-- Settles O26: the second draw is of the same points, since the first leaves `Vx`, `Vy`, `I` and the sprite's bytes alone. -/
theorem drwTwiceRestoresThePicture : Obligations.DrwTwiceRestoresThePicture := by
  intro x y n s ⟨_, _, hpixels⟩ hx hy hn hr
  have hnodup : (s.points8 x y n.val).Nodup := nodup_points s _ _ _ (Nat.le_of_lt n.isLt) (by decide)
  have hlt : ∀ k ∈ s.points8 x y n.val, k < 8192 := fun k hk =>
    (Pixels.spritePoints_lt s.width_pos s.height_pos hk).trans_le s.width_mul_height_le
  have hkept (r : Reg) (hne : r ≠ 15) : (s.drawSprite (s.getV x) (s.getV y) n.val 8 s.spriteRow8).getV r = s.getV r :=
    (s.getV_drawSprite ..).trans (if_neg hne)
  refine ⟨_, _, exec_drw_rows x y hn hr, exec_drw_rows x y hn hr, ?restored, ?flag⟩
  all_goals rw [hkept x hx, hkept y hy]
  case restored => exact xorPoints_twice hpixels hnodup hlt
  case flag =>
    have honce : ∀ c : Bool, (if c then (1 : Byte) else 0) = 1 ↔ c = true := by decide
    rw [getV_drawSprite_vF, honce]
    exact (collide_xorPoints_twice hpixels hnodup).trans (exists_mem_spritePoints fun r _ c _ => spriteRow8_bit s r c)

end Sys2Proof.Machine
end

section
/-! The remaining instructions, one by one: registers and logic (R151 to R156, R162), control flow (R270 to R278), EXIT (R300), keys and
timers (R220 to R225), the index register and the loads and stores (R240 to R246). Each handler is one update of the state, or a fault. -/

namespace Sys2Proof.Machine

/-! ### Registers and logic -/

/-- Without `QUIRK_LOGIC_VF_RESET` a logic operation is one write. -/
theorem writeLogic_of_not_reset {s : State} (h : s.config.logicVfReset = false) (x : Reg) (b : Byte) :
    s.writeLogic x b = s.setV x b := if_neg (by simp [h])

theorem byte_add_eq_ofNat (a b : Byte) : a + b = BitVec.ofNat 8 (a.toNat + b.toNat) := by
  apply BitVec.eq_of_toNat_eq
  rw [BitVec.toNat_add, BitVec.toNat_ofNat]

/-- Settles O15: the loads are one write of `Vx`; the logic operations are one too, or that and the last write of VF. -/
theorem registerLoadsAndLogic : Obligations.RegisterLoadsAndLogic := by
  intro x y kk s
  refine ⟨⟨_, rfl, writesV_setV s x kk⟩, ⟨_, rfl, byte_add_eq_ofNat .. ▸ writesV_setV s x _⟩,
    ⟨_, rfl, writesV_setV s x _⟩, ⟨_, rfl, writesV_setV s x _⟩, fun h => ?plain, fun h i b hib => ?reset⟩
  case plain =>
    have hwrite (b : Byte) : writesV x b s (s.writeLogic x b) := by
      rw [writeLogic_of_not_reset h]
      exact writesV_setV s x b
    exact ⟨⟨_, rfl, hwrite _⟩, ⟨_, rfl, hwrite _⟩, ⟨_, rfl, hwrite _⟩⟩
  case reset =>
    have hexec : exec i s = .next (s.writeLogic x b) := by
      obtain ⟨rfl, rfl⟩ | ⟨rfl, rfl⟩ | ⟨rfl, rfl⟩ := hib <;> rfl
    refine ⟨_, hexec, fun hx => ?_, ?_, fun r hrx hr15 => ?_, unchangedBut_writeLogic s x b⟩
    · simp [State.getV_writeLogic, vF, hx]
    · simp [State.getV_writeLogic, vF, h]
    · simp [State.getV_writeLogic, vF, hrx, hr15]

/-! ### Skips and jumps -/

/-- A skip that is taken moves `PC` by 2, one that is not leaves it (R270). -/
theorem skipIf_pc_eq (s : State) (c : Bool) : (s.skipIf c).pc = if c then s.pc + 2 else s.pc := by
  rw [State.skipIf_eq, State.setPc_pc]

/-- A handler that is a skip, with what it means for the skip to be taken (`p`) and not to be (`q`). -/
theorem exists_skip {i : Instr} {s : State} {c : Bool} {p q : Prop} (h : exec i s = .next (s.skipIf c)) (hp : p → c = true)
    (hq : q → c = false) :
    ∃ t, exec i s = .next t ∧ unchangedBut [.pc] s t ∧ (p → t.pc = s.pc + 2) ∧ (q → t.pc = s.pc) :=
  ⟨_, h, unchangedBut_skipIf s c, fun hpos => by rw [skipIf_pc_eq, if_pos (hp hpos)],
    fun hneg => by rw [skipIf_pc_eq, hq hneg, if_neg Bool.false_ne_true]⟩

/-- Settles O16: each form is the skip on its own comparison. -/
theorem skipsCompareAndSkip : Obligations.SkipsCompareAndSkip := fun _ _ _ _ =>
  ⟨exists_skip rfl beq_iff_eq.2 beq_eq_false_iff_ne.2, exists_skip rfl bne_iff_ne.2 bne_eq_false_iff_eq.2,
    exists_skip rfl beq_iff_eq.2 beq_eq_false_iff_ne.2, exists_skip rfl bne_iff_ne.2 bne_eq_false_iff_eq.2⟩

/-- Settles O17: the target is written as it stands. -/
theorem jumpsSetThePc : Obligations.JumpsSetThePc := fun nnn s =>
  ⟨⟨_, rfl, zext16_toNat nnn, unchangedBut_setPc s _⟩, ⟨_, rfl, jpV0_target_toNat nnn _, unchangedBut_setPc s _⟩⟩

/-! ### Return -/

theorem exec_ret_of_zero {s : State} (h : s.sp = 0) : exec .ret s = .next (s.raiseHere .stackUnderflow) := if_pos h

/-- R271 at depths 1 to 16. -/
theorem exec_ret_of_pos {s : State} (hpos : 0 < s.sp.toNat) (hle : s.sp.toNat - 1 < 16) :
    exec .ret s = .next ((s.setSp (s.sp - 1)).setPc s.stack[s.sp.toNat - 1]) := by
  have hne : s.sp ≠ 0 := fun h0 => absurd hpos (by simp [h0])
  change execRet s = _
  rw [execRet, if_neg hne, dif_pos hle]

/-- Settles O19: the handler is one write of `SP` and one of `PC`, or the fault. -/
theorem retPopsReturnAddress : Obligations.RetPopsReturnAddress := by
  refine fun s => ⟨fun hpos hle => ?pop, fun hzero => ?underflow⟩
  case pop =>
    have hlt : s.sp.toNat - 1 < 16 := by omega
    have hdepth : (s.sp - 1).toNat = s.sp.toNat - 1 := BitVec.toNat_sub_of_le (by change 1 ≤ s.sp.toNat; omega)
    refine ⟨_, exec_ret_of_pos hpos hlt, hdepth, ?_, unchangedBut_mono (by decide)
      (unchangedBut_trans (unchangedBut_setSp s _) (unchangedBut_setPc _ _))⟩
    rw [State.setPc_sp, State.setSp_sp, hdepth, State.setPc_pc]
    simp [hlt]
  case underflow =>
    exact ⟨_, exec_ret_of_zero (BitVec.eq_of_toNat_eq hzero), raisesOnly_raiseHere s _⟩

/-- Settles O20: each return reads the entry that its call wrote, since the inner pair writes the one above only. -/
theorem callsReturnInReverseOrder : Obligations.CallsReturnInReverseOrder := by
  intro a b s p q r hsp
  obtain ⟨s1, h1, hpush1, -, hsp1, -, -⟩ := (callPushesReturnAddress a s).2.1 (by omega)
  obtain ⟨s2, h2, hpush2, hkept2, hsp2, -, -⟩ :=
    (callPushesReturnAddress b (s1.setPc p)).2.1 (by rw [State.setPc_sp]; omega)
  rw [State.setPc_sp] at hpush2 hkept2 hsp2
  obtain ⟨s3, h3, hsp3, hpop3, hframe3⟩ :=
    (retPopsReturnAddress (s2.setPc q)).1 (by rw [State.setPc_sp]; omega) (by rw [State.setPc_sp]; omega)
  have hstack3 : s3.stack = s2.stack := hframe3 .stack (by decide)
  rw [State.setPc_sp] at hsp3
  obtain ⟨s4, h4, hsp4, hpop4, -⟩ :=
    (retPopsReturnAddress (s3.setPc r)).1 (by rw [State.setPc_sp]; omega) (by rw [State.setPc_sp]; omega)
  rw [State.setPc_sp] at hsp4
  have hdepth : s4.sp = s.sp := BitVec.eq_of_toNat_eq (by omega)
  refine ⟨s1, s2, s3, s4, h1, h2, h3, h4, ?inner, ?outer, hdepth, fun hzero => ?third⟩
  case inner =>
    have htop : s3.sp.toNat = s1.sp.toNat := by omega
    rw [State.setPc_stack, htop, hpush2] at hpop3
    exact (Option.some.inj hpop3).symm
  case outer =>
    rw [State.setPc_stack, hstack3, hdepth, hkept2 _ (by omega), State.setPc_stack, hpush1] at hpop4
    exact (Option.some.inj hpop4).symm
  case third => exact ⟨_, exec_ret_of_zero (hdepth.trans hzero), rfl⟩

/-- Settles O21: the handler is one write, and with no fault recorded Exited decides the engine state. -/
theorem exitStopsTheEngine : Obligations.ExitStopsTheEngine := fun s =>
  ⟨_, rfl, rfl, unchangedBut_setExited s, fun h => by simp [State.engine, h]⟩

/-! ### Keys and timers -/

section

variable {x : Reg} {s : State}

theorem exec_skpVx_of_lt (h : (s.getV x).toNat < 16) : exec (.skpVx x) s = .next (s.skipIf s.keyboard[(s.getV x).toNat]) := by
  rw [← s.keyHeld_of_lt h]
  exact congrArg Host.Outcome.next (if_neg (Nat.not_le.2 h))

theorem exec_sknpVx_of_lt (h : (s.getV x).toNat < 16) :
    exec (.sknpVx x) s = .next (s.skipIf (!s.keyboard[(s.getV x).toNat])) := by
  rw [← s.keyHeld_of_lt h]
  exact congrArg Host.Outcome.next (if_neg (Nat.not_le.2 h))

theorem exec_skpVx_of_ge (h : 16 ≤ (s.getV x).toNat) : exec (.skpVx x) s = .next (s.raiseHere .keyRangeFault) :=
  congrArg Host.Outcome.next (if_pos h)

theorem exec_sknpVx_of_ge (h : 16 ≤ (s.getV x).toNat) : exec (.sknpVx x) s = .next (s.raiseHere .keyRangeFault) :=
  congrArg Host.Outcome.next (if_pos h)

end

/-- Settles O30: below 16 the key of `Vx` decides the skip; the index is not masked. -/
theorem keySkips : Obligations.KeySkips := by
  refine fun x s => ⟨fun h => ⟨⟨_, exec_skpVx_of_lt h, unchangedBut_skipIf s _, skipIf_pc_eq s _⟩,
    ⟨_, exec_sknpVx_of_lt h, unchangedBut_skipIf s _, ?up⟩⟩, fun h i hi => ?range⟩
  case up =>
    rw [skipIf_pc_eq]
    cases s.keyboard[(s.getV x).toNat] <;> rfl
  case range =>
    obtain rfl | rfl := hi
    · exact ⟨_, exec_skpVx_of_ge h, raisesOnly_raiseHere s _⟩
    · exact ⟨_, exec_sknpVx_of_ge h, raisesOnly_raiseHere s _⟩

/-- Settles O32: each handler is one write, of a register or of a timer. -/
theorem timerRegisterMoves : Obligations.TimerRegisterMoves := fun x s =>
  ⟨⟨_, rfl, writesV_setV s x _⟩, ⟨_, rfl, rfl, unchangedBut_setDt s _⟩, ⟨_, rfl, rfl, unchangedBut_setSt s _⟩⟩

/-! ### The index register -/

/-- Settles O33: the flag is computed from the old `I` and the old `Vx`, and VF is written last. -/
theorem indexLoadAndAdd : Obligations.IndexLoadAndAdd := by
  intro nnn x s
  have hsum : (s.i + (s.getV x).zeroExtend 16).toNat = (s.i.toNat + (s.getV x).toNat) % 65536 := by
    rw [BitVec.toNat_add, BitVec.toNat_setWidth_of_le (by decide)]
  have hflag : ((s.setI (s.i + (s.getV x).zeroExtend 16)).setV vF (flagByte (addiFlag s.config s.i (s.getV x)))).getV 15 =
      flagByte (addiFlag s.config s.i (s.getV x)) := by simp [vF]
  refine ⟨⟨_, rfl, zext16_toNat nnn, unchangedBut_setI s _⟩, _, rfl, hsum, fun h => ?sum, fun h => ?other, fun r hr => ?kept,
    unchangedBut_trans (unchangedBut_setI s _) (unchangedBut_setV _ vF _)⟩
  case sum =>
    rw [hflag]
    simp only [addiFlag, h]
    exact flagByte_decide_toNat _
  case other =>
    rw [hflag]
    simp only [addiFlag, h]
    cases Config.addiVfOther s.i (s.getV x) <;> rfl
  case kept => simp [vF, hr]

/-! ### Stores and loads -/

/-- A byte of a store reads as stored. -/
theorem readByte_writeBytes_at {s : State} (hs : s.Inv) (a : Nat) (bs : List Byte) {k : Nat} (hk : k < bs.length) :
    (s.writeBytes a bs).readByte (a + k) = bs[k] := by
  obtain ⟨-, hmem, -⟩ := hs
  rw [State.readByte_writeBytes hmem, dif_pos ⟨Nat.le_add_right a k, Nat.add_lt_add_left hk a⟩]
  congr 1
  exact Nat.add_sub_cancel_left a k

section

variable {x : Reg} {s : State}

theorem exec_ldBVx_of_le (h : s.i.toNat + 2 ≤ 0xFFF) :
    exec (.ldBVx x) s = .next (s.writeBytes s.i.toNat (bcdDigits (s.getV x))) :=
  congrArg Host.Outcome.next (if_pos ((dataRangeOk_iff s 2).2 h))

theorem exec_ldBVx_of_range (h : 0xFFF < s.i.toNat + 2) : exec (.ldBVx x) s = .next (s.raiseHere .memRangeFault) :=
  congrArg Host.Outcome.next (if_neg fun hok => Nat.not_le.2 h ((dataRangeOk_iff s 2).1 hok))

theorem exec_ldMemVx_of_le (h : s.i.toNat + x.val ≤ 0xFFF) :
    exec (.ldMemVx x) s = .next ((s.writeBytes s.i.toNat (s.regsUpTo x)).afterLoadStore x) :=
  congrArg Host.Outcome.next (if_pos ((dataRangeOk_iff s x.val).2 h))

theorem exec_ldMemVx_of_range (h : 0xFFF < s.i.toNat + x.val) : exec (.ldMemVx x) s = .next (s.raiseHere .memRangeFault) :=
  congrArg Host.Outcome.next (if_neg fun hok => Nat.not_le.2 h ((dataRangeOk_iff s x.val).1 hok))

theorem exec_ldVxMem_of_le (h : s.i.toNat + x.val ≤ 0xFFF) : exec (.ldVxMem x) s =
    .next ((s.setVUpTo x fun k => s.readByte (s.i.toNat + k)).afterLoadStore x) :=
  congrArg Host.Outcome.next (if_pos ((dataRangeOk_iff s x.val).2 h))

theorem exec_ldVxMem_of_range (h : 0xFFF < s.i.toNat + x.val) : exec (.ldVxMem x) s = .next (s.raiseHere .memRangeFault) :=
  congrArg Host.Outcome.next (if_neg fun hok => Nat.not_le.2 h ((dataRangeOk_iff s x.val).1 hok))

end

@[simp] theorem readByte_afterLoadStore (s : State) (x : Reg) (a : Nat) : (s.afterLoadStore x).readByte a = s.readByte a := by
  rw [State.afterLoadStore_eq, State.readByte_setI]

@[simp] theorem getV_afterLoadStore (s : State) (x r : Reg) : (s.afterLoadStore x).getV r = s.getV r := by
  rw [State.afterLoadStore_eq, State.getV_setI]

/-- `QUIRK_LOADSTORE_I` after a load or store, which left `I` and the parameters alone (R245, D8). -/
theorem movesI_afterLoadStore {s t : State} (x : Reg) (hi : t.i = s.i) (hc : t.config = s.config) :
    movesI x s (t.afterLoadStore x) := by
  rw [State.afterLoadStore_eq, hi, hc]
  refine ⟨fun h => ?_, fun h => ?_⟩
  · simp [h]
  · rw [h, if_pos rfl, State.setI_i, BitVec.toNat_add, BitVec.toNat_ofNat]
    omega

/-- Settles O35: the three digits are below 10, and each is one stored byte. -/
theorem bcdStore : Obligations.BcdStore := by
  intro x s hs
  have hlt := (s.getV x).isLt
  have hread {k : Nat} (hk : k < 3) := congrArg BitVec.toNat (readByte_writeBytes_at hs s.i.toNat (bcdDigits (s.getV x)) hk)
  refine ⟨fun hle => ⟨_, exec_ldBVx_of_le hle, ?hundreds, ?tens, ?units, fun a ha => ?outside,
    unchangedBut_writeBytes s _ _⟩, fun hr => ⟨_, exec_ldBVx_of_range hr, raisesOnly_raiseHere s _⟩⟩
  case hundreds => exact (hread (by decide : 0 < 3)).trans (Nat.mod_eq_of_lt (by omega))
  case tens => exact (hread (by decide : 1 < 3)).trans (Nat.mod_eq_of_lt (by omega))
  case units => exact (hread (by decide : 2 < 3)).trans (Nat.mod_eq_of_lt (by omega))
  case outside => exact s.readByte_writeBytes_outside _ _ (by change a < _ ∨ s.i.toNat + 3 ≤ a; omega)

theorem getElem_regsUpTo (s : State) {x k : Reg} (hk : k ≤ x) :
    (s.regsUpTo x)[k.val]'(by rw [length_regsUpTo]; exact Nat.lt_succ_of_le hk) = s.getV k := by
  simp [State.regsUpTo, State.getV]

/-- Settles O36: the stored list is V0..Vx, one byte for each register. -/
theorem registerStore : Obligations.RegisterStore := by
  refine fun x s hs => ⟨fun hle => ⟨_, exec_ldMemVx_of_le hle, fun k hk => ?inside, fun a ha => ?outside,
    movesI_afterLoadStore x rfl rfl, unchangedBut_trans (unchangedBut_writeBytes s _ _) (unchangedBut_afterLoadStore _ x)⟩,
    fun hr => ⟨_, exec_ldMemVx_of_range hr, raisesOnly_raiseHere s _⟩⟩
  case inside =>
    have hlen : k.val < (s.regsUpTo x).length := by rw [length_regsUpTo]; exact Nat.lt_succ_of_le hk
    rw [readByte_afterLoadStore, readByte_writeBytes_at hs _ _ hlen, getElem_regsUpTo s hk]
  case outside =>
    rw [readByte_afterLoadStore]
    exact s.readByte_writeBytes_outside _ _ (by rw [length_regsUpTo]; omega)

/-- Settles O37: the loaded registers are those up to `Vx`. -/
theorem registerLoad : Obligations.RegisterLoad := by
  refine fun x s => ⟨fun hle => ⟨_, exec_ldVxMem_of_le hle, fun k hk => ?loaded, fun k hk => ?kept,
    movesI_afterLoadStore x (s.setVUpTo_i _ _) (s.setVUpTo_config _ _),
    unchangedBut_trans (unchangedBut_setVUpTo s _ _) (unchangedBut_afterLoadStore _ x)⟩,
    fun hr => ⟨_, exec_ldVxMem_of_range hr, raisesOnly_raiseHere s _⟩⟩
  case loaded => rw [getV_afterLoadStore, State.getV_setVUpTo, if_pos hk]
  case kept => rw [getV_afterLoadStore, State.getV_setVUpTo, if_neg (not_le.2 hk)]

/-- Settles O39: a fetch reads the two bytes that the store wrote, at addresses that do not wrap. -/
theorem storeIsSeenByNextFetch : Obligations.StoreIsSeenByNextFetch := by
  intro x k s hs hle hk
  obtain ⟨t, ht, hread, -⟩ := (registerStore x s hs).1 hle
  have hpc : (BitVec.ofNat 16 (s.i.toNat + k.val)).toNat = s.i.toNat + k.val := Nat.mod_eq_of_lt (by omega)
  refine ⟨t, ht, ?_⟩
  rw [State.fetchWord, State.setPc_pc, hpc, State.readByte_setPc, State.readByte_setPc, hread k (Nat.le_of_lt hk), Nat.add_assoc]
  exact congrArg _ (hread ⟨k.val + 1, by omega⟩ hk)

end Sys2Proof.Machine
end

section
/-! The cycle (R111 to R115, R301, R331) and the operations of the host (R8, R336 to R338): which word is fetched, which checks end a cycle,
and what a terminal state leaves undone. -/

namespace Sys2Proof.Machine

/-! ### The step -/

/-- Settles O6: with nothing pending the step is the free step, whose cycle sees a state that differs in the draw counter only. -/
theorem stepRunsDecodedInstruction : Obligations.StepRunsDecodedInstruction := by
  intro s i hpending hlive hf hd
  have hword : decodeWord s.wordAtPc = .ok i := by
    change (decodeWord s.wordAtPc).map (fun i => (i, [])) = _ at hd
    cases hw : decodeWord s.wordAtPc with
    | ok j =>
      rw [hw] at hd
      cases hd
      rfl
    | error e =>
      rw [hw] at hd
      cases hd
  have hfree : step s = freeStep s := by rw [step_eq, hpending]
  rw [hfree, freeStep, if_pos hlive]
  exact cycle_of_decode (s := { s with draws := s.draws + 1 }) _ hf hword

/-- Settles O7: the step takes the first operation off the list, and `perform` names its function. -/
theorem pendingOperationIsPerformed : Obligations.PendingOperationIsPerformed := by
  intro s op rest h
  rw [step_eq, h]
  cases op <;> rfl

/-! ### The word that a cycle fetches -/

theorem tableWord_of_lt {w : Nat} (hw : w < 65536) : tableWord 16 w = BitVec.ofNat 16 w :=
  congrArg (BitVec.ofNat 16) (Nat.mod_eq_of_lt hw)

/-- Decoding a word as the table numbers it is decoding the word. -/
theorem decodeTableWord_eq (nbits w : Nat) : decodeTableWord nbits w = (decodeWord (tableWord nbits w)).toOption := by
  have h := decodeBytes_wordBytes (tableWord nbits w) []
  rw [List.append_nil] at h
  rw [decodeTableWord, h]
  cases decodeWord (tableWord nbits w) <;> rfl

/-- Settles O8: both bytes of the stored word are read back, the first as the high one. -/
theorem placedWordIsFetched : Obligations.PlacedWordIsFetched := by
  intro s w hw hs _
  refine ⟨?word, rfl, rfl, ?decode⟩
  case word =>
    have hread {k : Nat} (hk : k < 2) := readByte_writeBytes_at hs s.pc.toNat (wordBytes (tableWord 16 w)) hk
    rw [← tableWord_of_lt hw, ← joinBytes_wordBytes (tableWord 16 w)]
    exact congrArg₂ joinBytes (hread (by decide : 0 < 2)) (hread (by decide : 1 < 2))
  case decode => rw [decodeTableWord_eq, tableWord_of_lt hw]

/-! ### The fetch checks (R112) -/

/-- Raising a fault has the whole effect of R311 and no other. -/
theorem raisesOnly_raise (s : State) (c : FaultCause) (info : FaultInfo) : raisesOnly c info s (s.raise c info) := by
  refine ⟨rfl, rfl, rfl, fun f hf => ?_⟩
  cases f with
  | fault | outputs => simp at hf
  | mem => exact fun _ => rfl
  | _ => rfl

/-- A fetch fault ends the cycle with `PC` and opcode 0 as its information, before IR and `PC` are written. -/
theorem cycle_of_fetchFault {s : State} {c : FaultCause} (rnd : Byte) (h : s.fetchFault = some c) :
    ∃ t, cycle rnd s = .next t ∧ raisesOnly c ⟨s.pc, 0⟩ { s with rnd := rnd } t :=
  ⟨_, by rw [cycle, h], raisesOnly_raise { s with rnd := rnd } c ⟨s.pc, 0⟩⟩

/-- R9: an address is odd when its lowest bit is set. -/
theorem getLsbD_zero_eq (w : Word) : w.getLsbD 0 = decide (w.toNat % 2 = 1) := by
  rw [BitVec.getLsbD, Nat.testBit_zero]

/-- Settles O9: the alignment check comes first, and the range check follows it. -/
theorem fetchFaultsEndTheCycle : Obligations.FetchFaultsEndTheCycle := by
  refine fun rnd s => ⟨fun hodd hallow => cycle_of_fetchFault rnd ?align, fun heven hrange => cycle_of_fetchFault rnd ?range⟩
  case align => rw [State.fetchFault, getLsbD_zero_eq, hallow, decide_eq_true hodd]; rfl
  case range =>
    have haligned : (s.pc.getLsbD 0 && !s.config.allowOddPc) = false := by
      rw [getLsbD_zero_eq]
      obtain heven | hallow := heven
      · simp [heven]
      · simp [hallow]
    rw [State.fetchFault, haligned, if_neg Bool.false_ne_true, if_pos hrange]

/-- Settles O11: a word of no row below 0x1000 is refused by the decoder as SYS space. -/
theorem sysWordsAreRefused : Obligations.SysWordsAreRefused := by
  intro rnd s hf hrow hsys hlt
  obtain ⟨e, he⟩ := decodeWord_of_no_row hrow
  rw [cycle_of_no_row rnd hf (sysSpace_of_error he (by omega)), if_pos ⟨rfl, hsys⟩]

/-! ### The end of a cycle (R115) -/

theorem unchangedBut_pushDisplay (s : State) : unchangedBut [.displayChanged, .outputs] s s.pushDisplay := by
  intro f hf
  rw [State.pushDisplay_eq]
  cases f with
  | displayChanged | outputs => simp at hf
  | mem => exact fun _ => rfl
  | fault => exact ⟨rfl, rfl⟩
  | _ => rfl

/-- Settles O13: the cycle is its handler's answer, pushed unless it holds a fault. -/
theorem cycleEndsWithDisplayPush : Obligations.CycleEndsWithDisplayPush := by
  intro rnd s u i hf hd hu
  have hcycle : cycle rnd s = .next (if u.faultCause.isSome then u else u.pushDisplay) := by
    rw [cycle_of_decode rnd hf hd, hu, endCycle]
  refine ⟨fun hnone => ⟨u.pushDisplay, ?pushed, ?cleared, fun h => ?event, fun h => ?silent, unchangedBut_pushDisplay u⟩,
    fun hsome => ?faulted⟩
  case pushed => rw [hcycle, if_neg (by simp [hnone])]
  case cleared => rw [State.pushDisplay_eq]
  case event => simp [State.pushDisplay_eq, h]
  case silent => simp [State.pushDisplay_eq, h]
  case faulted => rw [hcycle, if_pos (Option.isSome_iff_ne_none.2 hsome)]

/-! ### Live and terminal states (R338) -/

/-- Settles O50: in a live engine each operation is what it says, and the paused bit decides the engine state. -/
theorem pauseAndSingleStep : Obligations.PauseAndSingleStep := by
  intro s hlive
  refine ⟨fun b => ?pause, fun rnd => if_pos hlive⟩
  have hpause : pause b s = { s with paused := b } := if_pos hlive
  rw [hpause]
  refine ⟨rfl, fun f hf => ?_, engine_of_live (s := { s with paused := b }) hlive⟩
  cases f with
  | paused => exact absurd (List.mem_singleton_self _) hf
  | mem => exact fun _ => rfl
  | fault => exact ⟨rfl, rfl⟩
  | _ => rfl

theorem not_live_of_terminal {s : State} (h : s.exited = true ∨ s.faultCause ≠ none) : s.live = false := by
  by_contra hlive
  obtain ⟨hfault, hexited⟩ := s.live_iff.1 (by simpa using hlive)
  obtain h | h := h
  · simp [hexited] at h
  · exact h hfault

/-- R380: an accepted image leaves a live engine. -/
theorem withProgram_live (s : State) (image : List Byte) : (s.withProgram image).live = true := rfl

theorem toArray_getD (bytes : List Byte) (k : Nat) : bytes.toArray.getD k 0 = bytes.getD k 0 := by
  simp [List.getD_eq_getElem?_getD]

section

variable (s : State) (b : Array Byte)

@[simp] theorem withStream_exited : (s.withStream b).exited = (b.getD 12352 0 == 1) := by simp only [State.withStream]

@[simp] theorem withStream_faultCause : (s.withStream b).faultCause = none := by
  simp only [State.withStream]
  rfl

end

/-- R385: an accepted stream leaves a live engine, unless it says Exited. -/
theorem withStream_live (s : State) (b : Array Byte) : (s.withStream b).live = (b.getD 12352 0 != 1) := by
  simp [State.live, bne]

/-- Settles O49: the operations look at `State.live` first, and the loads start from reset. -/
theorem terminalStatesStay : Obligations.TerminalStatesStay := by
  intro s h
  have hdead := not_live_of_terminal h
  have hnot : ¬ s.live = true := by simp [hdead]
  refine ⟨fun i => tick_of_not_live i hdead, fun b => if_neg hnot, fun b => if_neg hnot, fun hpending => ?free,
    fun image hle => ?program, fun bytes hv => ?stream⟩
  case free =>
    rw [step_eq, hpending]
    exact if_neg hnot
  case program =>
    rw [loadProgram_of_le s hle]
    exact withProgram_live s image
  case stream => rw [loadState_of_valid s hv, withStream_live, toArray_getD]

end Sys2Proof.Machine
end

section
/-! Reset, LoadProgram, SaveState and LoadState (R60, R370 to R387): the image in memory, the layout of the save stream, which streams are
valid, and the round trip. -/

namespace Sys2Proof.Machine

/-! ### Reset (R60) -/

/-- A byte of memory at reset is what `FONT_BASE` and the fonts put there (R48, R51). -/
theorem reset_readByte (a : Nat) : State.reset.readByte a =
    if h : a < 80 then State.reset.config.smallFont[a] else if a < 240 then Config.bigFontByte (a - 80) else 0 := rfl

/-- Settles O55: every field but memory by the definition of reset, and memory by the fonts at `FONT_BASE` 0. -/
theorem resetValues : Obligations.ResetValues := by
  refine ⟨fun x => Vector.getElem_replicate x.isLt, rfl, rfl, rfl, rfl, rfl, rfl,
    fun k hk => Vector.getElem_replicate hk, fun k hk => Vector.getElem_replicate hk, rfl, fun _ => rfl, rfl,
    fun k hk => Vector.getElem_replicate hk, rfl, rfl, rfl, rfl, rfl, fun k hk => ?small, fun k hk => ?big, fun a ha => ?zero⟩
  case small => rw [reset_readByte, dif_pos hk]
  case big => rw [reset_readByte, dif_neg (by omega), if_pos (by omega), Nat.add_sub_cancel_left]
  case zero => rw [reset_readByte, dif_neg (by omega), if_neg (by omega)]

/-! ### LoadProgram (R380) -/

/-- R380: memory after an accepted image is the reset contents with the image written over them. -/
theorem readByte_withProgram (s : State) (image : List Byte) (a : Nat) : (s.withProgram image).readByte a =
    if h : 0x200 ≤ a ∧ a < 0x200 + image.length then image[a - 0x200] else Memory.unlisted s.config a :=
  Memory.read_writeBytes s.config (Memory.sorted_of_wf s.config (Memory.wf_nil s.config)) 0x200 image a

/-- R380, R60: what an accepted image does not say is as at reset. -/
theorem unchangedBut_withProgram (s : State) (image : List Byte) :
    unchangedBut [.mem, .r, .paused, .config, .rnd, .draws, .pending, .outputs] State.reset (s.withProgram image) := by
  intro f hf
  cases f with
  | mem | r | paused | config | rnd | draws | pending | outputs => simp at hf
  | fault => exact ⟨rfl, rfl⟩
  | _ => rfl

/-- Settles O51: an accepted image is one write of bytes over the reset contents. -/
theorem loadProgramLoadsTheImage : Obligations.LoadProgramLoadsTheImage := by
  refine fun image s => ⟨fun hle => ?accepted, fun hlong => if_neg (Nat.not_le.2 hlong), rfl⟩
  rw [loadProgram_of_le s hle]
  refine ⟨fun k hk => ?image, fun a ha => ?rest, rfl, fun h => if_pos h, fun h => if_neg (by simp [h]),
    unchangedBut_withProgram s image, rfl, rfl, rfl, withProgram_inv hle⟩
  case image =>
    rw [readByte_withProgram, dif_pos (by omega)]
    simp only [Nat.add_sub_cancel_left]
  case rest => rw [readByte_withProgram, dif_neg (by omega)]

/-! ### The save stream (R383, R384) -/

/-- The fields of the stream in the order of R383. -/
def State.saveParts (s : State) : List (List Byte) :=
  [s.v.toList, wordLE s.i, wordLE s.pc, [s.sp, s.dt, s.st], s.stack.toList.flatMap wordLE, (List.range 4096).map s.readByte,
    s.r.toList, [boolByte s.extendedMode], (List.range 8192).map fun k => boolByte (Pixels.lit s.pixels k), [boolByte s.exited]]

theorem saveBytes_eq (s : State) : s.saveBytes = s.saveParts.flatten := by
  simp only [State.saveBytes, State.saveParts, List.flatten_cons, List.flatten_nil, List.append_nil, List.append_assoc]

theorem length_flatMap_wordLE (l : List Word) : (l.flatMap wordLE).length = 2 * l.length := by
  induction l with
  | nil => rfl
  | cons w l ih =>
    have hword : (wordLE w).length = 2 := rfl
    rw [List.flatMap_cons, List.length_append, ih, hword, List.length_cons]
    omega

/-- The sizes of R384. -/
theorem length_saveParts (s : State) : s.saveParts.map List.length = [16, 2, 2, 3, 32, 4096, 8, 1, 8192, 1] := by
  simp only [State.saveParts, List.map_cons, List.map_nil, length_flatMap_wordLE, Vector.length_toList, List.length_map,
    List.length_range, wordLE, List.length_cons, List.length_nil]

/-- An entry of a part stands in the whole at its place in the part, after the parts before. -/
theorem getElem?_flatten {L : List (List Byte)} {n k : Nat} {l : List Byte} (hl : L[n]? = some l) (hk : k < l.length) :
    L.flatten[((L.take n).map List.length).sum + k]? = l[k]? := by
  induction L generalizing n with
  | nil => simp at hl
  | cons p L ih =>
    cases n with
    | zero =>
      obtain rfl : p = l := by simpa using hl
      rw [List.flatten_cons, List.take_zero, List.map_nil, List.sum_nil, Nat.zero_add, List.getElem?_append_left hk]
    | succ n =>
      rw [List.flatten_cons, List.take_succ_cons, List.map_cons, List.sum_cons, Nat.add_assoc,
        List.getElem?_append_right (Nat.le_add_right _ _), Nat.add_sub_cancel_left]
      exact ih (by simpa using hl)

/-- An entry of a field of the stream stands at the field's offset (R384). -/
theorem saveBytes_getElem? {s : State} (n : Nat) {l : List Byte} {offset k : Nat} (hl : s.saveParts[n]? = some l)
    (hoffset : ([16, 2, 2, 3, 32, 4096, 8, 1, 8192, 1].take n).sum = offset) (hk : k < l.length) :
    s.saveBytes[offset + k]? = l[k]? := by
  rw [saveBytes_eq, ← getElem?_flatten hl hk, List.map_take, length_saveParts, hoffset]

theorem length_saveBytes (s : State) : s.saveBytes.length = 12353 := by
  rw [saveBytes_eq, List.length_flatten, length_saveParts]
  rfl

/-- The bytes of words in sequence, the low one first (R384). -/
theorem getElem?_flatMap_wordLE (l : List Word) (k : Nat) :
    (l.flatMap wordLE)[2 * k]? = l[k]?.map (·.extractLsb 7 0) ∧
    (l.flatMap wordLE)[2 * k + 1]? = l[k]?.map (·.extractLsb 15 8) := by
  induction l generalizing k with
  | nil => exact ⟨rfl, rfl⟩
  | cons w l ih =>
    cases k with
    | zero => exact ⟨rfl, rfl⟩
    | succ k => exact ih k

theorem getElem?_map_range {α : Type} (f : Nat → α) {n k : Nat} (hk : k < n) : ((List.range n).map f)[k]? = some (f k) := by
  rw [List.getElem?_map, List.getElem?_range hk]
  rfl

theorem getElem?_toList {α : Type} {n k : Nat} (v : Vector α n) (hk : k < n) : v.toList[k]? = some v[k] := by
  simp [hk]

/-- Settles O52: the parts have the sizes of R384, so each starts at its offset. -/
theorem saveStreamLayout : Obligations.SaveStreamLayout := by
  refine fun s => ⟨length_saveBytes s, fun k hk => ?v, saveBytes_getElem? 1 (k := 0) rfl rfl (by decide : 0 < 2),
    saveBytes_getElem? 1 (k := 1) rfl rfl (by decide : 1 < 2), saveBytes_getElem? 2 (k := 0) rfl rfl (by decide : 0 < 2),
    saveBytes_getElem? 2 (k := 1) rfl rfl (by decide : 1 < 2), saveBytes_getElem? 3 (k := 0) rfl rfl (by decide : 0 < 3),
    saveBytes_getElem? 3 (k := 1) rfl rfl (by decide : 1 < 3), saveBytes_getElem? 3 (k := 2) rfl rfl (by decide : 2 < 3),
    fun k hk => ⟨?low, ?high⟩, fun a ha => ?mem, fun k hk => ?r, saveBytes_getElem? 7 (k := 0) rfl rfl Nat.zero_lt_one,
    fun k hk => ?pixel, saveBytes_getElem? 9 (k := 0) rfl rfl Nat.zero_lt_one, rfl, rfl⟩
  case v =>
    have h := saveBytes_getElem? (s := s) 0 (offset := 0) (k := k) rfl rfl (by simpa using hk)
    rw [Nat.zero_add] at h
    exact h.trans (getElem?_toList s.v hk)
  case low =>
    have h := saveBytes_getElem? (s := s) 4 (offset := 23) (k := 2 * k) rfl rfl
      (by rw [length_flatMap_wordLE, Vector.length_toList]; omega)
    rw [h, (getElem?_flatMap_wordLE _ k).1, getElem?_toList s.stack hk]
    rfl
  case high =>
    have h := saveBytes_getElem? (s := s) 4 (offset := 23) (k := 2 * k + 1) rfl rfl
      (by rw [length_flatMap_wordLE, Vector.length_toList]; omega)
    rw [show 24 + 2 * k = 23 + (2 * k + 1) by omega, h, (getElem?_flatMap_wordLE _ k).2, getElem?_toList s.stack hk]
    rfl
  case mem =>
    rw [saveBytes_getElem? (s := s) 5 (offset := 55) (k := a) rfl rfl (by simpa using ha)]
    exact getElem?_map_range _ ha
  case r =>
    rw [saveBytes_getElem? (s := s) 6 (offset := 4151) (k := k) rfl rfl (by simpa using hk)]
    exact getElem?_toList s.r hk
  case pixel =>
    rw [saveBytes_getElem? (s := s) 8 (offset := 4160) (k := k) rfl rfl (by simpa using hk)]
    exact getElem?_map_range _ hk

/-! ### LoadState (R385, R386) -/

section

variable (s : State) (b : Array Byte)

@[simp] theorem withStream_v : (s.withStream b).v = Vector.ofFn fun k => b.getD k.val 0 := by simp only [State.withStream]
@[simp] theorem withStream_i : (s.withStream b).i = streamWord b 16 := by simp only [State.withStream]
@[simp] theorem withStream_pc : (s.withStream b).pc = streamWord b 18 := by simp only [State.withStream]
@[simp] theorem withStream_sp : (s.withStream b).sp = b.getD 20 0 := by simp only [State.withStream]
@[simp] theorem withStream_dt : (s.withStream b).dt = b.getD 21 0 := by simp only [State.withStream]
@[simp] theorem withStream_st : (s.withStream b).st = b.getD 22 0 := by simp only [State.withStream]
@[simp] theorem withStream_stack : (s.withStream b).stack = Vector.ofFn fun k => streamWord b (23 + 2 * k.val) := by
  simp only [State.withStream]
@[simp] theorem withStream_r : (s.withStream b).r = Vector.ofFn fun k => b.getD (4151 + k.val) 0 := by
  simp only [State.withStream]
@[simp] theorem withStream_extendedMode : (s.withStream b).extendedMode = (b.getD 4159 0 == 1) := by
  simp only [State.withStream]
@[simp] theorem withStream_displayChanged : (s.withStream b).displayChanged = true := by simp only [State.withStream]
@[simp] theorem withStream_ir : (s.withStream b).ir = 0 := by simp only [State.withStream]; rfl
@[simp] theorem withStream_keyboard : (s.withStream b).keyboard = State.reset.keyboard := by
  simp only [State.withStream]; rfl
@[simp] theorem withStream_faultInfo : (s.withStream b).faultInfo = ⟨0, 0⟩ := by simp only [State.withStream]; rfl
@[simp] theorem withStream_paused : (s.withStream b).paused = s.paused := by simp only [State.withStream]; rfl
@[simp] theorem withStream_outputs : (s.withStream b).outputs = s.outputs := by simp only [State.withStream]; rfl

end

/-- R386, over the bytes as a list. -/
theorem validStream_toArray_iff (bytes : List Byte) : validStream bytes.toArray = true ↔
    bytes.length = 12353 ∧ bytes.getD 20 0 ≤ 16 ∧ bytes.getD 4159 0 ≤ 1 ∧ bytes.getD 12352 0 ≤ 1 ∧
      ∀ k, k < 8192 → bytes.getD (4160 + k) 0 ≤ 1 := by
  rw [validStream_iff]
  simp only [toArray_getD, List.size_toArray]

/-- Settles O53: the check of a stream is R386, and an accepted stream is read field by field. -/
theorem loadStateAcceptsOnlyValidStreams : Obligations.LoadStateAcceptsOnlyValidStreams := by
  intro bytes s
  rw [← validStream_toArray_iff]
  refine ⟨fun hv => ⟨_, rfl, ?_⟩, fun hv => if_neg hv, rfl⟩
  rw [loadState_of_valid s hv]
  simp [streamWord, joinBytes]

/-! ### The round trip (R387) -/

theorem getD_of_getElem? {l : List Byte} {k : Nat} {b : Byte} (h : l[k]? = some b) : l.getD k 0 = b := by
  rw [List.getD_eq_getElem?_getD, h]
  rfl

/-- A word read back from its two bytes in the stream. -/
theorem streamWord_of_getElem? {bytes : List Byte} {k : Nat} {w : Word} (hlow : bytes[k]? = some (w.extractLsb 7 0))
    (hhigh : bytes[k + 1]? = some (w.extractLsb 15 8)) : streamWord bytes.toArray k = w := by
  rw [streamWord, toArray_getD, toArray_getD, getD_of_getElem? hlow, getD_of_getElem? hhigh]
  exact joinBytes_wordBytes w

/-- A Boolean is written as 0 or 1, and read back by comparing with 1. -/
theorem boolByte_le (b : Bool) : boolByte b ≤ 1 := by cases b <;> decide

theorem boolByte_beq_one (b : Bool) : (boolByte b == 1) = b := by cases b <;> rfl

/-- Settles O54: each field is read where it was written, and the lists of memory and pixels are those of canonical form. -/
theorem saveLoadRoundTrip : Obligations.SaveLoadRoundTrip := by
  intro s u hs hconfig
  obtain ⟨hlength, hv, hi0, hi1, hpc0, hpc1, hsp, hdt, hst, hstack, hmem, hr, hmode, hpixel, hexited, -, -⟩ := saveStreamLayout s
  obtain ⟨hdepth, hmemwf, hpixelswf⟩ := hs
  have hvalid : validStream s.saveBytes.toArray = true := by
    refine (validStream_toArray_iff _).2 ⟨hlength, ?_, ?_, ?_, fun k hk => ?_⟩
    · rw [getD_of_getElem? hsp]
      exact hdepth
    · rw [getD_of_getElem? hmode]
      exact boolByte_le _
    · rw [getD_of_getElem? hexited]
      exact boolByte_le _
    · rw [getD_of_getElem? (hpixel k hk)]
      exact boolByte_le _
  refine ⟨_, rfl, ?_⟩
  rw [loadState_of_valid u hvalid]
  refine ⟨?v, ?i, ?pc, ?sp, ?dt, ?st, ?stack, ?mem, ?r, ?mode, ?pixels, ?exited, withStream_displayChanged _ _, withStream_ir _ _,
    withStream_keyboard _ _, withStream_faultCause _ _, withStream_faultInfo _ _, withStream_outputs _ _, withStream_inv hvalid⟩
  case v =>
    apply Vector.ext
    intro k hk
    rw [withStream_v, Vector.getElem_ofFn, toArray_getD, getD_of_getElem? (hv k hk)]
  case i => exact (withStream_i _ _).trans (streamWord_of_getElem? hi0 hi1)
  case pc => exact (withStream_pc _ _).trans (streamWord_of_getElem? hpc0 hpc1)
  case sp => rw [withStream_sp, toArray_getD, getD_of_getElem? hsp]
  case dt => rw [withStream_dt, toArray_getD, getD_of_getElem? hdt]
  case st => rw [withStream_st, toArray_getD, getD_of_getElem? hst]
  case stack =>
    apply Vector.ext
    intro k hk
    obtain ⟨hlow, hhigh⟩ := hstack k hk
    rw [show 24 + 2 * k = 23 + 2 * k + 1 by omega] at hhigh
    rw [withStream_stack, Vector.getElem_ofFn, streamWord_of_getElem? hlow hhigh]
  case mem =>
    rw [withStream_mem, hconfig]
    refine Memory.ext_of_wf s.config (Memory.wf_ofContents _ _) hmemwf fun a ha => ?_
    rw [Memory.read_ofContents _ _ ha, toArray_getD, getD_of_getElem? (hmem a ha)]
    rfl
  case r =>
    apply Vector.ext
    intro k hk
    rw [withStream_r, Vector.getElem_ofFn, toArray_getD, getD_of_getElem? (hr k hk)]
  case mode =>
    rw [withStream_extendedMode, toArray_getD, getD_of_getElem? hmode]
    exact boolByte_beq_one _
  case pixels =>
    rw [withStream_pixels]
    refine Pixels.ext_of_wf (wf_filter_range _) hpixelswf fun k => ?_
    rw [Bool.eq_iff_iff, Pixels.lit_iff, List.mem_filter, List.mem_range, toArray_getD]
    constructor
    · rintro ⟨hk, hon⟩
      rw [getD_of_getElem? (hpixel k hk)] at hon
      exact (boolByte_beq_one _).symm.trans hon
    · intro hon
      have hk : k < 8192 := ((Pixels.wf_iff _).1 hpixelswf).2 k ((Pixels.lit_iff _ _).1 hon)
      rw [getD_of_getElem? (hpixel k hk)]
      exact ⟨hk, (boolByte_beq_one _).trans hon⟩
  case exited =>
    rw [withStream_exited, toArray_getD, getD_of_getElem? hexited]
    exact boolByte_beq_one _

end Sys2Proof.Machine
end

section
/-! Runs of ticks under weak fairness (R333, D1): a Paused engine counts both timers down to 0 with one beep at most, and a Running one
reaches a cycle. -/

namespace Sys2Proof.Machine

/-! ### A tick that runs no cycle -/

/-- The fields that a tick without a cycle may write, with the list of operations that the host rewrites before each. -/
def idleFields : List Field := [.dt, .st, .keyboard, .outputs, .pending]

/-- The state after a tick without a cycle: the keyboard sample, and the timer step when it is due (R330). -/
def State.idled (s : State) (t : TickInput) : State := ((s.withPending []).setKeyboard t.keys).timerStepIf t.timerDue

theorem unchangedBut_idled (s : State) (t : TickInput) : unchangedBut idleFields s (s.idled t) := by
  have hsample : unchangedBut [.keyboard, .pending] s ((s.withPending []).setKeyboard t.keys) := by
    intro f hf
    cases f with
    | keyboard | pending => simp at hf
    | mem => exact fun _ => rfl
    | fault => exact ⟨rfl, rfl⟩
    | _ => rfl
  have htimer := unchangedBut_ite (p := t.timerDue = true) (unchangedBut_timerStep ((s.withPending []).setKeyboard t.keys))
    (unchangedBut_refl _ _)
  exact unchangedBut_mono (by decide) (unchangedBut_trans hsample htimer)

@[simp] theorem idled_engine (s : State) (t : TickInput) : (s.idled t).engine = s.engine := by
  unfold State.idled
  cases t.timerDue with
  | false => rfl
  | true => exact (timerStep_engine _).trans rfl

theorem idled_dt_toNat (s : State) (t : TickInput) : (s.idled t).dt.toNat = s.dt.toNat - t.timerDue.toNat := by
  unfold State.idled
  cases t.timerDue with
  | false => rfl
  | true =>
    rw [timerStepIf_true, State.timerStep_dt, countDown_toNat]
    rfl

theorem idled_st_toNat (s : State) (t : TickInput) : (s.idled t).st.toNat = s.st.toNat - t.timerDue.toNat := by
  unfold State.idled
  cases t.timerDue with
  | false => rfl
  | true =>
    rw [timerStepIf_true, State.timerStep_st, countDown_toNat]
    rfl

/-! ### The beep (R341) -/

/-- The events of a run that counts `ST` down from the one of `s`: a beep once `ST` has gone from a value above 0 to 0. -/
def BeepedOnce (s t : State) : Prop :=
  (s.st = 0 → t.st = 0) ∧
  t.outputs = if s.st ≠ 0 ∧ t.st = 0 then .beep Config.beepFreqHz Config.beepDurationMs :: s.outputs else s.outputs

theorem beepedOnce_refl (s : State) : BeepedOnce s s := ⟨id, by rw [if_neg fun ⟨h, h'⟩ => h h']⟩

theorem beepedOnce_timerStep {s t : State} (h : BeepedOnce s t) : BeepedOnce s t.timerStep := by
  obtain ⟨hzero, houtputs⟩ := h
  rw [BeepedOnce, State.timerStep_st, State.timerStep_outputs, houtputs]
  by_cases h0 : t.st = 0
  · simp [h0]
  · have hs : s.st ≠ 0 := fun hs => h0 (hzero hs)
    refine ⟨fun hs0 => absurd hs0 hs, ?_⟩
    rw [if_neg h0, if_neg (c := _ ∧ t.st = 0) fun h => h0 h.2]
    by_cases h1 : t.st = 1
    · rw [if_pos h1, if_pos ⟨hs, by rw [h1]; rfl⟩]
    · rw [if_neg h1, if_neg fun h => h1 (sub_eq_zero.1 h.2)]

theorem beepedOnce_idled {s t : State} (i : TickInput) (h : BeepedOnce s t) : BeepedOnce s (t.idled i) := by
  have hsample : BeepedOnce s ((t.withPending []).setKeyboard i.keys) := h
  unfold State.idled
  cases i.timerDue with
  | false => exact hsample
  | true => exact beepedOnce_timerStep hsample

/-! ### Counting down -/

/-- A number that goes down by 1 at infinitely many steps, stopping at 0, and never up, is 0 from some step on. -/
theorem countdown_reaches_zero {f : Nat → Nat} {due : Nat → Bool} (hstep : ∀ n, f (n + 1) = f n - (due n).toNat)
    (hdue : ∀ n, ∃ m, n ≤ m ∧ due m = true) : ∃ n, ∀ m, n ≤ m → f m = 0 := by
  have hanti : Antitone f := antitone_nat_of_succ_le fun n => (hstep n).trans_le (Nat.sub_le _ _)
  have bounded (v : Nat) : ∀ n, f n ≤ v → ∃ n, ∀ m, n ≤ m → f m = 0 := by
    induction v with
    | zero => exact fun n hn => ⟨n, fun m hm => Nat.le_zero.1 ((hanti hm).trans hn)⟩
    | succ v ih =>
      intro n hn
      obtain ⟨d, hd, hdd⟩ := hdue n
      have hle : f d ≤ v + 1 := (hanti hd).trans hn
      have hnext : f (d + 1) = f d - 1 := by rw [hstep, hdd]; rfl
      exact ih (d + 1) (by omega)
  exact bounded (f 0) 0 (Nat.le_refl _)

/-! ### Runs of ticks -/

theorem exists_tick {op : HostOp} (h : op.isTick = true) : ∃ t, op = .tick t := by
  cases op with
  | tick t => exact ⟨t, rfl⟩
  | _ => cases h

section

variable {ops : Nat → HostOp} {states : Nat → State} (hrun : HostRun ops states)

include hrun

/-- A step of the run is the tick that the host calls. -/
theorem tick_of_run {n : Nat} {t : TickInput} (h : ops n = .tick t) :
    tick t ((states n).withPending []) = .next (states (n + 1)) := by
  have hn := hrun n
  rwa [h] at hn

/-- A tick of a Paused engine, or of a Running one without a cycle due, leaves the idled state. -/
theorem states_succ_of_idle {n : Nat} {t : TickInput} (h : ops n = .tick t)
    (hidle : (states n).engine = .paused ∨ ((states n).engine = .running ∧ t.cycleDue = false)) :
    states (n + 1) = (states n).idled t :=
  Host.Outcome.next.inj ((tick_of_run hrun h).symm.trans (tick_idle (s := (states n).withPending []) hidle))

variable (hticks : ∀ n, (ops n).isTick = true)

include hticks

/-- What holds all along a run of ticks that starts Paused. -/
theorem paused_run (hpaused : (states 0).engine = .paused) (n : Nat) : (states n).engine = .paused ∧
    unchangedBut idleFields (states 0) (states n) ∧ BeepedOnce (states 0) (states n) := by
  induction n with
  | zero => exact ⟨hpaused, unchangedBut_refl _ _, beepedOnce_refl _⟩
  | succ n ih =>
    obtain ⟨hengine, hframe, hbeep⟩ := ih
    obtain ⟨t, ht⟩ := exists_tick (hticks n)
    rw [states_succ_of_idle hrun ht (.inl hengine)]
    exact ⟨(idled_engine _ t).trans hengine,
      unchangedBut_mono (by decide) (unchangedBut_trans hframe (unchangedBut_idled _ t)), beepedOnce_idled t hbeep⟩

/-- In a run of ticks that starts Paused each timer goes down by 1 at a tick with the timer due, and at no other. -/
theorem paused_countdown (hpaused : (states 0).engine = .paused) (n : Nat) :
    (states (n + 1)).dt.toNat = (states n).dt.toNat - (ops n).isTimerTick.toNat ∧
    (states (n + 1)).st.toNat = (states n).st.toNat - (ops n).isTimerTick.toNat := by
  obtain ⟨t, ht⟩ := exists_tick (hticks n)
  rw [states_succ_of_idle hrun ht (.inl (paused_run hrun hticks hpaused n).1), ht]
  exact ⟨idled_dt_toNat _ t, idled_st_toNat _ t⟩

/-- Up to the first tick with a cycle due, a run of ticks that starts Running stays Running and idles. -/
theorem running_run (hrunning : (states 0).engine = .running) {n : Nat} (hbefore : ∀ m < n, (ops m).isCycleTick = false) :
    (states n).engine = .running ∧ unchangedBut idleFields (states 0) (states n) := by
  induction n with
  | zero => exact ⟨hrunning, unchangedBut_refl _ _⟩
  | succ n ih =>
    obtain ⟨hengine, hframe⟩ := ih fun m hm => hbefore m (Nat.lt_succ_of_lt hm)
    obtain ⟨t, ht⟩ := exists_tick (hticks n)
    have hnone : t.cycleDue = false := by
      have hn := hbefore n (Nat.lt_succ_self n)
      rwa [ht] at hn
    rw [states_succ_of_idle hrun ht (.inr ⟨hengine, hnone⟩)]
    exact ⟨(idled_engine _ t).trans hengine,
      unchangedBut_mono (by decide) (unchangedBut_trans hframe (unchangedBut_idled _ t))⟩

end

/-- A tick of a Running engine with a cycle due answers the state after the cycle, or that state after one timer step (R330). -/
theorem exists_cycle_of_tick {s u : State} {t : TickInput} (hrunning : s.engine = .running) (hdue : t.cycleDue = true)
    (h : tick t s = .next u) : ∃ v, cycle t.rnd (s.setKeyboard t.keys) = .next v ∧ (u = v ∨ u = v.timerStep) := by
  obtain ⟨hlive, hpaused⟩ := live_and_not_paused_of_engine hrunning
  obtain ⟨hdead, -⟩ | ⟨-, hidle, -⟩ | ⟨-, -, -, hcycle⟩ := tick_next h
  · simp [hlive] at hdead
  · simp [hdue, hpaused] at hidle
  · exact hcycle

/-- Settles O60: fairness makes the timer due again and again, so that both count down to 0, and a cycle due at some tick, of which the
first is the one meant. -/
theorem fairTicksMakeProgress : Obligations.FairTicksMakeProgress := by
  intro ops states hrun hfair hticks
  obtain ⟨hcycles, htimers⟩ := hfair fun n => ⟨n, Nat.le_refl n, hticks n⟩
  refine ⟨fun hpaused => ?paused, fun hrunning => ?running⟩
  case paused =>
    have hcount := paused_countdown hrun hticks hpaused
    obtain ⟨n, hdt⟩ := countdown_reaches_zero (f := fun n => (states n).dt.toNat) (fun n => (hcount n).1) htimers
    obtain ⟨k, hst⟩ := countdown_reaches_zero (f := fun n => (states n).st.toNat) (fun n => (hcount n).2) htimers
    refine ⟨max n k, fun m hm => ?_⟩
    obtain ⟨hengine, hframe, -, houtputs⟩ := paused_run hrun hticks hpaused m
    have hdt0 : (states m).dt = 0 := BitVec.eq_of_toNat_eq (hdt m ((Nat.le_max_left n k).trans hm))
    have hst0 : (states m).st = 0 := BitVec.eq_of_toNat_eq (hst m ((Nat.le_max_right n k).trans hm))
    refine ⟨hdt0, hst0, hengine, fun h => ?_, fun h => ?_, hframe⟩
    · rw [houtputs, if_neg fun ⟨hne, _⟩ => hne h]
    · rw [houtputs, if_pos ⟨h, hst0⟩]
  case running =>
    have hexists : ∃ n, (ops n).isCycleTick = true := (hcycles 0).imp fun _ h => h.2
    have hbefore : ∀ m < Nat.find hexists, (ops m).isCycleTick = false := fun m hm => by simpa using Nat.find_min hexists hm
    have hfirst := Nat.find_spec hexists
    generalize Nat.find hexists = n at hbefore hfirst
    have hrest (m : Nat) (hm : m ≤ n) := running_run hrun hticks hrunning fun j (hj : j < m) => hbefore j (hj.trans_le hm)
    obtain ⟨t, ht⟩ := exists_tick (hticks n)
    have hdue : t.cycleDue = true := by rwa [ht] at hfirst
    obtain ⟨u, hu, hstate⟩ := exists_cycle_of_tick (s := (states n).withPending []) (hrest n (Nat.le_refl n)).1 hdue
      (tick_of_run hrun ht)
    exact ⟨n, t, u, ht, hdue, hrest, hu, hstate⟩

end Sys2Proof.Machine
end
